-- ==== Sys2Proof/Word.lean ====
section
/-! DEFINITION. The words, bytes and colour records of SG-CORE. -/
namespace Sys2Proof

/-- One byte: of the wire, or of a colour channel (00_scope.md R11, R13). -/
abbrev Byte := BitVec 8

/-- One host register or one word of the host address space (00_scope.md R12). -/
abbrev Word := BitVec 32

/-- A duration or a time reading in nanoseconds (00_scope.md R12). -/
abbrev Nanos := BitVec 64

/-- The bit pattern of an IEEE 754 binary32 number (00_scope.md R15, 20_memory.md R64). -/
abbrev F32 := BitVec 32

/-- An RGB8 colour: three 8-bit channels (00_scope.md R11). -/
structure Rgb8 where
  r : Byte
  g : Byte
  b : Byte
  deriving DecidableEq, Repr

/-- The black colour, the reset value of every RGB8 (70_reset_and_hazards.md R340). -/
def Rgb8.black : Rgb8 := { r := 0, g := 0, b := 0 }

/-- An HSV colour as three binary32 patterns; hue is a fraction of a turn (00_scope.md R11, R18). -/
structure Hsv where
  h : F32
  s : F32
  v : F32
  deriving DecidableEq, Repr

end Sys2Proof
end

