-- ==== Sys2Proof/Syntax.lean ====
section
/-! DEFINITION. The commands of SG-CORE: one constructor per row of spec/opcode_table.json. -/
namespace Sys2Proof

/-- A command (30_encoding.md R90, R92). Each constructor carries the IDX field of its word (R91): an entry
index for CHAN and GAIN, an LED index for PIPE, and for every other command a field the hardware ignores,
kept so that encoding drops no bit of a word. -/
inductive Instr where
  /-- OP 0x00 (46_control.md R243). -/
  | nop (idx : Nat)
  /-- OP 0x01 (40_colorspace.md R126). -/
  | rgb2hsv (idx : Nat)
  /-- OP 0x02 (40_colorspace.md R127). -/
  | hsv2rgb (idx : Nat)
  /-- OP 0x03 (41_transformers.md R147); `k` is the transform-table entry. -/
  | chan (k : Nat)
  /-- OP 0x04 (41_transformers.md R148); `k` is the transform-table entry. -/
  | gain (k : Nat)
  /-- OP 0x05 (42_pipeline.md R165); `i` is the LED index. -/
  | pipe (i : Nat)
  /-- OP 0x06 (43_smoothing.md R186). -/
  | smooth (idx : Nat)
  /-- OP 0x07 (43_smoothing.md R187). -/
  | factor (idx : Nat)
  /-- OP 0x08 (45_protocol.md R226). -/
  | hdr (idx : Nat)
  /-- OP 0x09 (45_protocol.md R227). -/
  | emit (idx : Nat)
  /-- OP 0x10 (46_control.md R241). -/
  | start (idx : Nat)
  /-- OP 0x11 (46_control.md R242). -/
  | stop (idx : Nat)
  deriving DecidableEq, Repr

/-- The IDX field a command carries (30_encoding.md R91). -/
def Instr.idx : Instr → Nat
  | .nop i | .rgb2hsv i | .hsv2rgb i | .chan i | .gain i | .pipe i => i
  | .smooth i | .factor i | .hdr i | .emit i | .start i | .stop i => i

end Sys2Proof
end

