-- ==== Sys2Proof/WellFormed.lean ====
section
/-! DEFINITION. Which terms of Instr stand for a command word. -/
namespace Sys2Proof

/-- A command is well formed when its index fits the 16-bit IDX field: an unsigned index 0..65535
(30_encoding.md R91). An entry index that fits but is not below K_MAX is a well-formed command that raises
E_INDEX when it runs (R94). -/
abbrev Instr.WellFormed (i : Instr) : Prop := i.idx < 65536

end Sys2Proof
end

