-- ==== Sys2Proof/Decode.lean ====
section
/-! DEFINITION. The decoder of command words, total and rejecting by name, and the encoder. -/
namespace Sys2Proof

/-- Why a word is no command (30_encoding.md R93). -/
inductive DecodeError where
  /-- RSV, bits [31:24], is not 0. -/
  | reservedBits
  /-- OP, bits [7:0], is not in the table of R92. -/
  | illegalOpcode
  /-- Not four bytes: every command is 32 bits (R90). -/
  | wrongLength
  deriving DecidableEq, Repr

/-- The OP field, bits [7:0] (30_encoding.md R90). -/
def opField (w : Word) : Nat := (w.extractLsb' 0 8).toNat

/-- The IDX field, bits [23:8], read as an unsigned index (30_encoding.md R90, R91). -/
def idxField (w : Word) : Nat := (w.extractLsb' 8 16).toNat

/-- The RSV field, bits [31:24] (30_encoding.md R90). -/
def rsvField (w : Word) : Nat := (w.extractLsb' 24 8).toNat

/-- The opcode map of 30_encoding.md R92. -/
def opcodeMap : List (Nat × (Nat → Instr)) :=
  [(0x00, .nop), (0x01, .rgb2hsv), (0x02, .hsv2rgb), (0x03, .chan), (0x04, .gain), (0x05, .pipe),
   (0x06, .smooth), (0x07, .factor), (0x08, .hdr), (0x09, .emit), (0x10, .start), (0x11, .stop)]

/-- Decoding of a command word: RSV must be 0 and OP listed; IDX is free (30_encoding.md R92, R93). -/
def decode (w : Word) : Except DecodeError Instr :=
  if rsvField w = 0 then
    match opcodeMap.find? (fun row => row.1 == opField w) with
    | some row => .ok (row.2 (idxField w))
    | none => .error .illegalOpcode
  else .error .reservedBits

/-- The OP value of each command (30_encoding.md R92). -/
def opcodeOf : Instr → Nat
  | .nop _ => 0x00
  | .rgb2hsv _ => 0x01
  | .hsv2rgb _ => 0x02
  | .chan _ => 0x03
  | .gain _ => 0x04
  | .pipe _ => 0x05
  | .smooth _ => 0x06
  | .factor _ => 0x07
  | .hdr _ => 0x08
  | .emit _ => 0x09
  | .start _ => 0x10
  | .stop _ => 0x11

/-- The word of a command: RSV = 0, IDX, OP, from the high bits down (30_encoding.md R90, R96). -/
def encode (i : Instr) : Word :=
  0#8 ++ BitVec.ofNat 16 i.idx ++ BitVec.ofNat 8 (opcodeOf i)

/-- The four bytes of a word, the byte at the lowest address first (20_memory.md R63). -/
def wordBytes (w : Word) : List Byte :=
  [w.extractLsb' 0 8, w.extractLsb' 8 8, w.extractLsb' 16 8, w.extractLsb' 24 8]

/-- The decoder over bytes in the order the host interface stores them (20_memory.md R63); total on any
bytes. A command is four bytes and nothing else (30_encoding.md R90). -/
def decodeBytes : List Byte → Except DecodeError Instr
  | [b0, b1, b2, b3] => decode (b3 ++ b2 ++ b1 ++ b0)
  | _ => .error .wrongLength

/-- The command the decoder reads from a row of spec/opcode_table.json whose low `nbits` bits are `w`. -/
def decodeTableWord (nbits w : Nat) : Option Instr :=
  match decodeBytes (wordBytes (BitVec.ofNat 32 (w % 2 ^ nbits))) with
  | .ok i => some i
  | .error _ => none

end Sys2Proof
end

