-- ==== Sys2Proof/Machine/Binary32.lean ====
section
/-! DEFINITION. IEEE 754 binary32 arithmetic over bit patterns: every operation is computed exactly on
integers and rounded once, to nearest, ties to even (00_scope.md R15, 20_memory.md R64). -/
namespace Sys2Proof.Machine

/-- +0.0, 1.0, 2.0, 4.0, 6.0 and 255.0, exact binary32 values (40_colorspace.md R121). -/
def f32Zero : F32 := 0x00000000#32
def f32One : F32 := 0x3F800000#32
def f32Two : F32 := 0x40000000#32
def f32Four : F32 := 0x40800000#32
def f32Six : F32 := 0x40C00000#32
def f32Byte : F32 := 0x437F0000#32

/-- The sign, bit 31. -/
def f32Neg (a : F32) : Bool := a.msb

/-- Exponent and fraction, bits [30:0], as one number: it grows with the magnitude. -/
def f32Mag (a : F32) : Nat := a.toNat % 2 ^ 31

/-- The magnitude number of infinity. -/
def infMag : Nat := 0x7F800000

/-- isNaN(a) (00_scope.md R15). -/
def isNaN (a : F32) : Bool := infMag < f32Mag a

def isInf (a : F32) : Bool := f32Mag a == infMag

def isFinite (a : F32) : Bool := f32Mag a < infMag

/-- IEEE equality with 0.0: both zeros (40_colorspace.md R124). -/
def isZero (a : F32) : Bool := f32Mag a == 0

/-- The magnitude of a finite number in units of 2^-149, the least positive number: an exact integer. -/
def unitsOf (mag : Nat) : Nat :=
  if mag / 2 ^ 23 = 0 then mag else (2 ^ 23 + mag % 2 ^ 23) * 2 ^ (mag / 2 ^ 23 - 1)

/-- The magnitude of a finite number in units of 2^-149. -/
def f32Units (a : F32) : Nat := unitsOf (f32Mag a)

/-- The value of a finite number in units of 2^-149. -/
def f32Int (a : F32) : Int := if f32Neg a then - (f32Units a : Int) else (f32Units a : Int)

/-- A number from its sign and its magnitude number. -/
def f32Pack (neg : Bool) (mag : Nat) : F32 :=
  BitVec.ofNat 32 ((if neg then 2 ^ 31 else 0) + mag)

/-- The exponent step of a quotient: 0 below 2^24 units, else the number of bits over 24. -/
def roundExp (num den : Nat) : Nat := Nat.log2 (num / den) - 23

/-- The magnitude number nearest to num / den units, ties to even, infinity from overflow (00_scope.md R15):
with E bits to drop, the quotient by den · 2^E has at most 24 bits, and E · 2^23 plus that quotient is the
magnitude number, for subnormal and normal numbers and through the carry of rounding up. -/
def roundUnits (num den : Nat) : Nat :=
  let e := roundExp num den
  let d := den * 2 ^ e
  let q := num / d
  let r := num % d
  let up := if d < 2 * r ∨ (2 * r = d ∧ q % 2 = 1) then 1 else 0
  min (e * 2 ^ 23 + q + up) infMag

/-- The NaN an operation makes; its payload reaches no register and no wire (log 9). -/
def nanF32 : F32 := 0x7FC00000#32

/-- The other sign. -/
def fneg (a : F32) : F32 := f32Pack (!f32Neg a) (f32Mag a)

/-- Addition. An exact zero sum is +0 unless both operands are negative zeros (log 19). -/
def fadd (a b : F32) : F32 :=
  if isNaN a || isNaN b then nanF32
  else if isInf a then (if isInf b && f32Neg a != f32Neg b then nanF32 else a)
  else if isInf b then b
  else
    let z := f32Int a + f32Int b
    if z = 0 then f32Pack (f32Neg a && f32Neg b) 0
    else f32Pack (z < 0) (roundUnits z.natAbs 1)

/-- Subtraction. -/
def fsub (a b : F32) : F32 := fadd a (fneg b)

/-- Multiplication; 0 × ∞ is NaN. -/
def fmul (a b : F32) : F32 :=
  if isNaN a || isNaN b then nanF32
  else if isInf a || isInf b then
    (if isZero a || isZero b then nanF32 else f32Pack (f32Neg a != f32Neg b) infMag)
  else f32Pack (f32Neg a != f32Neg b) (roundUnits (f32Units a * f32Units b) (2 ^ 149))

/-- Division; x / 0 is ±∞ for finite non-zero x, 0 / 0 and ∞ / ∞ are NaN. -/
def fdiv (a b : F32) : F32 :=
  if isNaN a || isNaN b then nanF32
  else if isInf a then
    (if isInf b then nanF32 else f32Pack (f32Neg a != f32Neg b) infMag)
  else if isInf b then f32Pack (f32Neg a != f32Neg b) 0
  else if isZero b then
    (if isZero a then nanF32 else f32Pack (f32Neg a != f32Neg b) infMag)
  else f32Pack (f32Neg a != f32Neg b) (roundUnits (f32Units a * 2 ^ 149) (f32Units b))

/-- f32(n) of an integer. -/
def f32OfInt (n : Int) : F32 := f32Pack (n < 0) (roundUnits (n.natAbs * 2 ^ 149) 1)

/-- A number that orders non-NaN patterns as their values; both zeros are 0. -/
def f32Key (a : F32) : Int := if f32Neg a then - (f32Mag a : Int) else (f32Mag a : Int)

/-- IEEE less-than: false when either operand is NaN. -/
def flt (a b : F32) : Bool := !isNaN a && !isNaN b && f32Key a < f32Key b

/-- floor(a) for finite a. -/
def floorInt (a : F32) : Int := f32Int a / 2 ^ 149

/-- The integer part, toward zero, of a finite a (43_smoothing.md R183). -/
def truncInt (a : F32) : Int :=
  if f32Neg a then - ((f32Units a / 2 ^ 149 : Nat) : Int) else ((f32Units a / 2 ^ 149 : Nat) : Int)

/-- ToByte (40_colorspace.md R120): NaN gives 0, 255.0 and above 255, 0.0 and below 0, else truncation. -/
def toByte (x : F32) : Byte :=
  if isNaN x then 0
  else if !flt x f32Byte then 255
  else if !flt f32Zero x then 0
  else BitVec.ofNat 8 (f32Units x / 2 ^ 149)

/-- Whether a lies in [0, 1] (both zeros do, NaN does not). -/
def inUnit (a : F32) : Bool := !isNaN a && !flt a f32Zero && !flt f32One a

end Sys2Proof.Machine
end

