-- ==== Sys2Proof/Config.lean ====
section
/-! DEFINITION. What an implementation fixes, and the values the spec leaves free. -/
namespace Sys2Proof

/-- What HSV2RGB does with a hue outside [0, 1): the parameter HUE_OOR (00_scope.md R10,
40_colorspace.md R128). -/
inductive HueOor where
  /-- Rule R125 is applied literally. -/
  | literal
  /-- The result bytes are a draw. -/
  | unspecified
  deriving DecidableEq, Repr

/-- The parameters the model takes as arguments, fixed for one model instance (00_scope.md R10). They stand
in State, which never changes them, so that a statement over all states is one over all instances (log 1). -/
structure Params where
  /-- N_MAX, the largest LED count the output buffer holds. -/
  nMax : Nat
  /-- K_MAX, the number of transform-table entries. -/
  kMax : Nat
  /-- HUE_OOR. -/
  hueOor : HueOor
  deriving DecidableEq, Repr

/-- The constraints of 00_scope.md R10. -/
abbrev Params.valid (p : Params) : Prop :=
  1 ≤ p.nMax ∧ p.nMax ≤ 65536 ∧ 1 ≤ p.kMax ∧ p.kMax ≤ 64

/-- The reference values of 00_scope.md R10. -/
def Params.reference : Params := { nMax := 65536, kMax := 32, hueOor := .literal }

/-- The free part of POWF (00_scope.md R10): any total function of two binary32 patterns. The model's `powf`
gives it the four properties of 41_transformers.md R141 and nothing else (log 2). -/
opaque Config.powfFree : F32 → F32 → F32

/-- The bytes drawn where HUE_OOR = unspecified (40_colorspace.md R128), numbered by State.draws (log 3). -/
opaque Config.freeByte : Nat → Byte

end Sys2Proof
end

