-- ==== Sys2Proof/Machine/State.lean ====
section
/-! DEFINITION. The state of SG-CORE as plain data, the reasons a step can stop, and the state after reset. -/
namespace Sys2Proof.Machine

/-- The RW-idle configuration registers, by their implemented bits (10_state.md R22, R27 to R34, R52). -/
structure ConfigRegs where
  /-- CTRL bit 0: false is the policy "none", true is "linear" (R22). -/
  policy : Bool
  /-- LED_COUNT bits [16:0] (R27). -/
  ledCount : BitVec 17
  /-- XFORM_COUNT bits [6:0] (R28). -/
  xformCount : BitVec 7
  /-- ITER_LIMIT (R29). -/
  iterLimit : Word
  /-- TC_LO and TC_HI (R30). -/
  tcLo : Word
  tcHi : Word
  /-- REFRESH_LO and REFRESH_HI (R31). -/
  refreshLo : Word
  refreshHi : Word
  /-- CAPIV_LO and CAPIV_HI (R32). -/
  capivLo : Word
  capivHi : Word
  /-- BACKOFF_LO and BACKOFF_HI (R33). -/
  backoffLo : Word
  backoffHi : Word
  /-- TARGET_W and TARGET_H (R34). -/
  targetW : Word
  targetH : Word
  deriving DecidableEq, Repr

/-- The read-only counters and observation registers (10_state.md R35, R36). -/
structure Counters where
  iterCount : Word
  framesSent : Word
  framesDropped : Word
  captureFails : Word
  noFrameCount : Word
  lastDtLo : Word
  lastDtHi : Word
  lastFactor : F32
  deriving DecidableEq, Repr

/-- The operand registers (10_state.md R37 to R39). -/
structure OperandRegs where
  opaRgb : Rgb8
  opbRgb : Rgb8
  opaH : F32
  opaS : F32
  opaV : F32
  opaF : F32
  opaDtLo : Word
  opaDtHi : Word
  deriving DecidableEq, Repr

/-- The result registers, by their implemented bits (10_state.md R40). -/
structure ResultRegs where
  resRgb : Rgb8
  resH : F32
  resS : F32
  resV : F32
  resF : F32
  /-- Header bytes 0 to 3, byte 0 in bits [7:0]. -/
  resHdr0 : Word
  /-- Header bytes 4 and 5, byte 4 in bits [7:0]; bits [31:16] of the register read 0. -/
  resHdr1 : BitVec 16
  deriving DecidableEq, Repr

/-- The byte memory of the host address space: address and byte pairs (10_state.md R41, R46, 20_memory.md
R60, R63). An address with no pair reads as 0x00, the reset value the spec gives every transform-table word
and every output-buffer entry (70_reset_and_hazards.md R340; log 14). -/
abbrev Memory := List Host.Cell

/-- The canonical form: addresses strictly rising, no pair holding the byte an unlisted address reads as. -/
abbrev Memory.wf (m : Memory) : Prop :=
  m.Pairwise (fun c d => c.1 < d.1) ∧ ∀ c ∈ m, c.2 ≠ 0

/-- Where the sequencer is: IDLE, or the next thing it does in the iteration (10_state.md R47, 46_control.md
R250). A step that makes two external calls has a place at each, since the sequencer waits at a CALL until
the collaborator returns (log 6). -/
inductive SeqPos where
  | idle
  /-- S0. -/
  | boundary
  /-- S1, at its now(). -/
  | tick
  /-- S2. -/
  | capCheck
  /-- S3, at captureFrame(). -/
  | capture
  /-- S3 after Ok, at the now() of 44_governor.md R204. -/
  | captured
  /-- S4, before the event is raised. -/
  | capFail
  /-- S4 in the sleep of BACKOFF; STATE reads 3. -/
  | backoffSleep
  /-- S4 at captureReinit(). -/
  | reinit
  /-- S5, at getStoredFrame(). -/
  | frame
  /-- S5 after Some, at geometry(). -/
  | geometry
  /-- S6 for the LED of `IterTemps.led`. -/
  | led
  /-- S7, at the header write. -/
  | emitHeader
  /-- S7 after the header, at the payload write. -/
  | emitPayload
  /-- S8, at its now(). -/
  | pace
  /-- S8 in sleep(d); STATE reads 2. -/
  | paceSleep (d : Nanos)
  /-- S9. -/
  | finish
  deriving DecidableEq, Repr

/-- The temporaries of an iteration (10_state.md R47); meaningless in IDLE. -/
structure IterTemps where
  dt : Nanos
  factor : F32
  /-- The frame handle, an opaque token (20_memory.md R76; log 16). -/
  frame : Nat
  srcW : Word
  srcH : Word
  led : Nat
  deriving DecidableEq, Repr

/-- The FrameGovernor's hidden state (10_state.md R48, R49). -/
structure Governor where
  rswStart : Nanos
  cswStart : Nanos
  capValid : Bool
  deriving DecidableEq, Repr

/-- What the transport answers to write(B) of length L (60_exceptions.md R333). -/
inductive WriteAnswer where
  /-- Ok(k): the first k bytes are on the wire. Only k ≤ L is in the contract. -/
  | ok (k : Nat)
  /-- Err: a drawn number j of first bytes is on the wire (all of them where j exceeds L; log 8). -/
  | err (j : Nat)
  deriving DecidableEq, Repr

/-- The answers the external collaborators have still to give, one list per call, in call order
(60_exceptions.md R330). A call whose list is empty has not returned, and may never (46_control.md R257;
log 4); `HostAction.answer` brings more. A call that returns nothing is a count of the calls that return. -/
structure Answers where
  times : List Nanos
  /-- captureFrame(): true is Ok. -/
  captures : List Bool
  /-- getStoredFrame(): a token or None. -/
  frames : List (Option Nat)
  geometries : List (Word × Word)
  reinits : Nat
  averages : List Rgb8
  writes : List WriteAnswer
  sleeps : Nat
  deriving DecidableEq, Repr

/-- An external call that has returned, with its arguments (60_exceptions.md R330; log 17). -/
inductive Call where
  | now
  | captureFrame
  | getStoredFrame
  | geometry
  | captureReinit
  | averageColor (token : Nat) (led : Nat) (srcW srcH targetW targetH : Word)
  | write (bytes : List Byte)
  | sleep (d : Nanos)
  deriving DecidableEq, Repr

/-- What the outside world does to the block: MemRead, MemWrite (20_memory.md R60; `width` in bytes), reset
(70_reset_and_hazards.md R340, R341; log 10), or more answers of the collaborators (60_exceptions.md R330; log 4). -/
inductive HostAction where
  | read (addr : BitVec 20) (width : Nat)
  | write (addr : BitVec 20) (width : Nat) (value : Word)
  /-- A reset. `accepted` is how many first bytes of a transport write that it abandons are on the wire: any
  number (U17 of 93_implementation_defined.md). `answers` is what the collaborators answer to the calls made
  after it. -/
  | reset (accepted : Nat) (answers : Answers)
  /-- More answers, behind the ones that are there. -/
  | answer (more : Answers)
  deriving DecidableEq, Repr

/-- A pending action and how many steps of the sequencer (while it has one enabled) come before it: the
interleaving that 20_memory.md R70 leaves open, as plain data (log 5). -/
structure Request where
  after : Nat
  act : HostAction
  deriving DecidableEq, Repr

/-- What the outside world does once the listed requests are used up. Nothing guarantees the sequencer a step
while the host goes on (70_reset_and_hazards.md R348; log 26). -/
inductive Later where
  /-- Nothing: the block steps alone. -/
  | quiet
  /-- The same requests over and over: a host that polls for ever. -/
  | polls (round : List Request)
  /-- Whatever it does: the free requests numbered from `next` on (`Config.freeRequests`). -/
  | free (next : Nat)
  deriving DecidableEq, Repr

end Sys2Proof.Machine

/-- The requests of an outside world that nothing constrains, numbered: some before the next step, or none
(20_memory.md R70, 70_reset_and_hazards.md R348; log 26). -/
opaque Sys2Proof.Config.freeRequests : Nat → List Sys2Proof.Machine.Request

namespace Sys2Proof.Machine

/-- The external call a CMD write is waiting for (46_control.md R240, 45_protocol.md R227; log 7). -/
inductive CmdWait where
  /-- START, at its now(). -/
  | startClock
  /-- EMIT, at the header write. -/
  | emitHeader
  /-- EMIT, at the payload write. -/
  | emitPayload
  deriving DecidableEq, Repr

/-- Everything the spec gives SG-CORE (10_state.md R20, R47 to R50), the wire (20_memory.md R68), and the
model's own fields for the world outside (INVENTORY.md). -/
structure State where
  /-- The instance's parameters (00_scope.md R10; log 1). -/
  params : Params
  cfg : ConfigRegs
  /-- STATUS bits [17:8]: bit n here is the event of code n + 8 (10_state.md R25). -/
  sticky : BitVec 10
  /-- STATUS bit 3 (10_state.md R23). -/
  stopPend : Bool
  cnt : Counters
  opnd : OperandRegs
  res : ResultRegs
  /-- The transform table and the output buffer. -/
  mem : Memory
  pos : SeqPos
  iter : IterTemps
  gov : Governor
  /-- The bytes the transport has accepted, in order. -/
  wire : List Byte
  /-- The requests of the outside world, first to come first. -/
  pending : List Request
  /-- What it does after them. -/
  later : Later
  answers : Answers
  cmdWait : Option CmdWait
  /-- The value the last host read returned (log 12). -/
  readData : Word
  calls : List Call
  /-- How many free values have been drawn (log 3). -/
  draws : Nat
  deriving DecidableEq, Repr

/-- SG-CORE has no fault: an error event never stops it and never transfers control (60_exceptions.md R302),
and a call that never returns is "a hang, not a fault" (46_control.md R257; log 15). No one raises one; safe. -/
inductive Fault where
  deriving DecidableEq, Repr

/-- The reasons a step is refused. -/
inductive Refusal where
  /-- Raised by exec for an instruction that has no meaning yet (none is left). Safe. -/
  | notModelled (mnemonic : String)
  /-- Raised by a frame emission (EMIT, S7) whose transport answered Ok(k) with k over the number of bytes
  asked: "outside the collaborator's contract and not admitted by the model" (60_exceptions.md R333, U9 of
  93_implementation_defined.md). Safe: no run goes on from it. -/
  | transportOverreport
  deriving DecidableEq, Repr

/-- The configuration registers after reset (10_state.md R54). -/
def ConfigRegs.reset : ConfigRegs :=
  { policy := false, ledCount := 0, xformCount := 0, iterLimit := 0, tcLo := 0, tcHi := 0,
    refreshLo := 0, refreshHi := 0, capivLo := 0, capivHi := 0, backoffLo := 0x3B9ACA00, backoffHi := 0,
    targetW := 0, targetH := 0 }

/-- The counters after reset and after START (10_state.md R35, R36, R54; 46_control.md R241). -/
def Counters.zero : Counters :=
  { iterCount := 0, framesSent := 0, framesDropped := 0, captureFails := 0, noFrameCount := 0,
    lastDtLo := 0, lastDtHi := 0, lastFactor := 0 }

/-- The operand registers after reset (10_state.md R54). -/
def OperandRegs.reset : OperandRegs :=
  { opaRgb := Rgb8.black, opbRgb := Rgb8.black, opaH := 0, opaS := 0, opaV := 0, opaF := 0,
    opaDtLo := 0, opaDtHi := 0 }

/-- The result registers after reset (10_state.md R54). -/
def ResultRegs.reset : ResultRegs :=
  { resRgb := Rgb8.black, resH := 0, resS := 0, resV := 0, resF := 0, resHdr0 := 0, resHdr1 := 0 }

/-- The temporaries after reset: the spec gives none, zero is the model's (DESIGN CHOICE, log 11). -/
def IterTemps.reset : IterTemps :=
  { dt := 0, factor := 0, frame := 0, srcW := 0, srcH := 0, led := 0 }

/-- The stopwatches after reset (70_reset_and_hazards.md R340). -/
def Governor.reset : Governor := { rswStart := 0, cswStart := 0, capValid := false }

/-- No answer waiting (log 4). -/
def Answers.none : Answers :=
  { times := [], captures := [], frames := [], geometries := [], reinits := 0, averages := [],
    writes := [], sleeps := 0 }

/-- The machine right after reset (70_reset_and_hazards.md R340, R342; 10_state.md R54), with the reference
parameters (log 1), nothing on the wire, and nothing pending from outside. -/
def State.reset : State :=
  { params := Params.reference, cfg := ConfigRegs.reset, sticky := 0, stopPend := false,
    cnt := Counters.zero, opnd := OperandRegs.reset, res := ResultRegs.reset, mem := [], pos := .idle,
    iter := IterTemps.reset, gov := Governor.reset, wire := [], pending := [], later := .quiet,
    answers := Answers.none, cmdWait := none, readData := 0, calls := [], draws := 0 }

end Sys2Proof.Machine
end

