-- ==== Sys2Proof/Machine/Flags.lean ====
section
/-! DEFINITION. The flags of SG-CORE: STATUS, its sticky error bits and their events (10_state.md R23 to R25,
60_exceptions.md R300). There are no condition codes (R56). -/
namespace Sys2Proof.Machine

/-- The error events (60_exceptions.md R300). -/
inductive Event where
  | eCapture
  | eTxHdr
  | eTxPay
  | eNoFrame
  | eConfig
  | eCmdIllegal
  | eCmdBusy
  | eWrBusy
  | eBus
  | eIndex
  deriving DecidableEq, Repr

/-- The code of an event is its STATUS bit number (60_exceptions.md R300). -/
def eventCode : Event → Nat
  | .eCapture => 8
  | .eTxHdr => 9
  | .eTxPay => 10
  | .eNoFrame => 11
  | .eConfig => 12
  | .eCmdIllegal => 13
  | .eCmdBusy => 14
  | .eWrBusy => 15
  | .eBus => 16
  | .eIndex => 17

/-- The event's bit among the sticky bits [17:8]. -/
def eventBit (e : Event) : BitVec 10 := BitVec.twoPow 10 (eventCode e - 8)

/-- The sequencer's state as a number (10_state.md R24): 0 IDLE, 1 ACTIVE, 2 PACE_SLEEP, 3 BACKOFF. -/
def seqCode : SeqPos → BitVec 3
  | .idle => 0
  | .paceSleep _ => 2
  | .backoffSleep => 3
  | .boundary | .tick | .capCheck | .capture | .captured | .capFail | .reinit => 1
  | .frame | .geometry | .led | .emitHeader | .emitPayload | .pace | .finish => 1

/-- STATUS as the host reads it (10_state.md R23). -/
def statusWord (s : State) : Word :=
  0#14 ++ s.sticky ++ 0#4 ++ BitVec.ofBool s.stopPend ++ seqCode s.pos

/-- The sticky bits after a host write of v to STATUS: write one to clear; the other bits of v are ignored
(10_state.md R25). -/
def stickyCleared (sticky : BitVec 10) (v : Word) : BitVec 10 := sticky &&& ~~~ (v.extractLsb' 8 10)

end Sys2Proof.Machine
end

