-- ==== Sys2Proof/Machine/Operands.lean ====
section
/-! DEFINITION. Operand forms: packing of colours in words, the two-register quantities, the 64-bit values
of LO and HI pairs, and which words the registers hold (10_state.md R27 to R40). -/
namespace Sys2Proof.Machine

/-- An RGB8 as a word: r in bits [7:0], g in [15:8], b in [23:16], zeros above (10_state.md R37). -/
def packRgb (c : Rgb8) : Word := 0#8 ++ c.b ++ c.g ++ c.r

/-- The RGB8 of a word; bits [31:24] are reserved and dropped (10_state.md R37, R52). -/
def unpackRgb (w : Word) : Rgb8 :=
  { r := w.extractLsb' 0 8, g := w.extractLsb' 8 8, b := w.extractLsb' 16 8 }

/-- A u64 from its LO and HI registers (20_memory.md R64). -/
def u64Of (lo hi : Word) : Nanos := hi ++ lo

def loWord (t : Nanos) : Word := t.extractLsb' 0 32

def hiWord (t : Nanos) : Word := t.extractLsb' 32 32

/-- N, LED_COUNT bits [16:0] (10_state.md R27). -/
def ledN (s : State) : Nat := s.cfg.ledCount.toNat

/-- K, XFORM_COUNT bits [6:0] (10_state.md R28). -/
def xformK (s : State) : Nat := s.cfg.xformCount.toNat

/-- TC (10_state.md R30). -/
def tcOf (s : State) : Nanos := u64Of s.cfg.tcLo s.cfg.tcHi

/-- REFRESH_PERIOD (10_state.md R31). -/
def refreshOf (s : State) : Nanos := u64Of s.cfg.refreshLo s.cfg.refreshHi

/-- CAPTURE_INTERVAL (10_state.md R32). -/
def capivOf (s : State) : Nanos := u64Of s.cfg.capivLo s.cfg.capivHi

/-- BACKOFF (10_state.md R33). -/
def backoffOf (s : State) : Nanos := u64Of s.cfg.backoffLo s.cfg.backoffHi

/-- OPA_DT (10_state.md R39). -/
def opaDtOf (s : State) : Nanos := u64Of s.opnd.opaDtLo s.opnd.opaDtHi

/-- Whether N is in the range HDR, EMIT and START accept (45_protocol.md R226, R227; 46_control.md R241). -/
def ledCountValid (s : State) : Bool := 1 ≤ ledN s && ledN s ≤ s.params.nMax

end Sys2Proof.Machine
end

