-- ==== Sys2Proof/Machine/RegMap.lean ====
section
/-! DEFINITION. The register map and the host address map (10_state.md R54, 20_memory.md R61). -/
namespace Sys2Proof.Machine

/-- The host registers (10_state.md R54). -/
inductive Reg where
  | id | ctrl | status | cmd | ledCount | xformCount | iterLimit
  | tcLo | tcHi | refreshLo | refreshHi | capivLo | capivHi | backoffLo | backoffHi
  | targetW | targetH
  | iterCount | framesSent | framesDropped | captureFails | noFrameCount
  | lastDtLo | lastDtHi | lastFactor
  | opaRgb | opbRgb | opaH | opaS | opaV | opaF | opaDtLo | opaDtHi
  | resRgb | resH | resS | resV | resF | resHdr0 | resHdr1
  deriving DecidableEq, Repr

/-- The access classes of 10_state.md R51. -/
inductive AccessClass where
  | ro
  | rwAny
  | rwIdle
  | wo
  | w1c
  deriving DecidableEq, Repr

/-- The identification, control and configuration registers, in the order of the table. -/
def configRegs : List Reg :=
  [.id, .ctrl, .status, .cmd, .ledCount, .xformCount, .iterLimit, .tcLo, .tcHi, .refreshLo, .refreshHi,
   .capivLo, .capivHi, .backoffLo, .backoffHi, .targetW, .targetH]

/-- The counters, operand and result registers, in the order of the table. -/
def dataRegs : List Reg :=
  [.iterCount, .framesSent, .framesDropped, .captureFails, .noFrameCount, .lastDtLo, .lastDtHi, .lastFactor,
   .opaRgb, .opbRgb, .opaH, .opaS, .opaV, .opaF, .opaDtLo, .opaDtHi,
   .resRgb, .resH, .resS, .resV, .resF, .resHdr0, .resHdr1]

/-- Every register. -/
def allRegs : List Reg := configRegs ++ dataRegs

/-- The byte offset of a register (10_state.md R54). -/
def regOffset : Reg → Nat
  | .id => 0x000
  | .ctrl => 0x004
  | .status => 0x008
  | .cmd => 0x00C
  | .ledCount => 0x010
  | .xformCount => 0x014
  | .iterLimit => 0x018
  | .tcLo => 0x020
  | .tcHi => 0x024
  | .refreshLo => 0x028
  | .refreshHi => 0x02C
  | .capivLo => 0x030
  | .capivHi => 0x034
  | .backoffLo => 0x038
  | .backoffHi => 0x03C
  | .targetW => 0x040
  | .targetH => 0x044
  | .iterCount => 0x050
  | .framesSent => 0x054
  | .framesDropped => 0x058
  | .captureFails => 0x05C
  | .noFrameCount => 0x060
  | .lastDtLo => 0x064
  | .lastDtHi => 0x068
  | .lastFactor => 0x06C
  | .opaRgb => 0x080
  | .opbRgb => 0x084
  | .opaH => 0x088
  | .opaS => 0x08C
  | .opaV => 0x090
  | .opaF => 0x094
  | .opaDtLo => 0x098
  | .opaDtHi => 0x09C
  | .resRgb => 0x0A0
  | .resH => 0x0A4
  | .resS => 0x0A8
  | .resV => 0x0AC
  | .resF => 0x0B0
  | .resHdr0 => 0x0B4
  | .resHdr1 => 0x0B8

/-- The access class of a register (10_state.md R51, R54). -/
def regClass : Reg → AccessClass
  | .id => .ro
  | .status => .w1c
  | .cmd => .wo
  | .ctrl | .ledCount | .xformCount | .iterLimit => .rwIdle
  | .tcLo | .tcHi | .refreshLo | .refreshHi | .capivLo | .capivHi | .backoffLo | .backoffHi => .rwIdle
  | .targetW | .targetH => .rwIdle
  | .iterCount | .framesSent | .framesDropped | .captureFails | .noFrameCount => .ro
  | .lastDtLo | .lastDtHi | .lastFactor => .ro
  | .opaRgb | .opbRgb | .opaH | .opaS | .opaV | .opaF | .opaDtLo | .opaDtHi => .rwAny
  | .resRgb | .resH | .resS | .resV | .resF | .resHdr0 | .resHdr1 => .ro

/-- The register at an offset, if one is listed there. -/
def regAt (a : Nat) : Option Reg := allRegs.find? (fun r => regOffset r == a)

/-- What an aligned address selects (20_memory.md R61). -/
inductive Target where
  | reg (r : Reg)
  /-- Word `w` of transform-table entry `k`. -/
  | xf (k w : Nat)
  | outbuf (i : Nat)
  | unmapped
  deriving DecidableEq, Repr

/-- The address of word w of XF[k] (10_state.md R41). -/
def xfAddr (k w : Nat) : Nat := 0x1000 + 64 * k + 4 * w

/-- The address of OUTBUF[i] (10_state.md R46). -/
def outAddr (i : Nat) : Nat := 0x40000 + 4 * i

/-- The first address after the transform table (20_memory.md R61). -/
def xfEnd (p : Params) : Nat := xfAddr p.kMax 0

/-- The first address after the output buffer (20_memory.md R61). -/
def outEnd (p : Params) : Nat := outAddr p.nMax

/-- The host address map (20_memory.md R61), for an address that is a multiple of 4. -/
def targetOf (p : Params) (a : Nat) : Target :=
  if a < 0x1000 then
    match regAt a with
    | some r => .reg r
    | none => .unmapped
  else if a < xfEnd p then .xf ((a - 0x1000) / 64) ((a - 0x1000) % 64 / 4)
  else if outAddr 0 ≤ a ∧ a < outEnd p then .outbuf ((a - 0x40000) / 4)
  else .unmapped

end Sys2Proof.Machine
end

