-- ==== Sys2Proof/Machine/Ops.lean ====
section
/-! DEFINITION. The named operations over memory, events and the external calls. -/
namespace Sys2Proof.Machine

/-! ## Memory (20_memory.md R63; 10_state.md R41, R46) -/

/-- The byte at an address; 0x00 where none is listed (log 14). -/
def readByte : Memory → Nat → Byte
  | [], _ => 0
  | (b, v) :: rest, a => if a = b then v else readByte rest a

/-- The memory with no pair at an address. -/
def eraseByte (m : Memory) (a : Nat) : Memory := m.filter (fun c => c.1 != a)

/-- A pair put before the first one of a higher address. -/
def insertByte : Memory → Nat → Byte → Memory
  | [], a, v => [(a, v)]
  | (b, w) :: rest, a, v =>
    if a < b then (a, v) :: (b, w) :: rest else (b, w) :: insertByte rest a v

/-- A byte stored at an address, keeping the canonical form. -/
def writeByte (m : Memory) (a : Nat) (v : Byte) : Memory :=
  if v = 0 then eraseByte m a else insertByte (eraseByte m a) a v

/-- The word at an address: the host interface is little-endian (20_memory.md R63). -/
def readWord (m : Memory) (a : Nat) : Word :=
  readByte m (a + 3) ++ readByte m (a + 2) ++ readByte m (a + 1) ++ readByte m a

/-- A word stored at an address, little-endian (20_memory.md R63). -/
def writeWord (m : Memory) (a : Nat) (v : Word) : Memory :=
  writeByte (writeByte (writeByte (writeByte m a (v.extractLsb' 0 8))
    (a + 1) (v.extractLsb' 8 8)) (a + 2) (v.extractLsb' 16 8)) (a + 3) (v.extractLsb' 24 8)

/-- Every byte of the range [lo, hi) made zero. -/
def clearRange (m : Memory) (lo hi : Nat) : Memory :=
  m.filter (fun c => decide (c.1 < lo ∨ hi ≤ c.1))

/-- Word w of XF[k] (10_state.md R41). -/
def xfWord (s : State) (k w : Nat) : Word := readWord s.mem (xfAddr k w)

/-- OUTBUF[i] (10_state.md R46; 20_memory.md R63). -/
def readOut (s : State) (i : Nat) : Rgb8 := unpackRgb (readWord s.mem (outAddr i))

/-- The memory with OUTBUF[i] <- c: the three channels change together (20_memory.md R69). -/
def writeOut (m : Memory) (i : Nat) (c : Rgb8) : Memory := writeWord m (outAddr i) (packRgb c)

/-! ## Error events (00_scope.md R14; 60_exceptions.md R300 to R302): SG-CORE's whole exception mechanism.
An event sets its sticky bit. It saves nothing and transfers control nowhere, so there is no return. -/

/-- raise E_NAME: the event's sticky bit is set; its `info` is discarded (60_exceptions.md R301). -/
def raise (e : Event) (s : State) : State := { s with sticky := s.sticky ||| eventBit e }

/-- drop(): one more dropped frame and nothing else (45_protocol.md R223). -/
def dropFrame (s : State) : State :=
  { s with cnt := { s.cnt with framesDropped := s.cnt.framesDropped + 1 } }

/-! ## Acceptance of commands (30_encoding.md R94) -/

/-- A command that runs only in IDLE: E_CMD_BUSY and no other effect elsewhere (30_encoding.md R94 (1),
60_exceptions.md R307). -/
def whenIdle (s : State) (run : Host.Outcome State Fault Refusal) : Host.Outcome State Fault Refusal :=
  if s.pos = .idle then run else .next (raise .eCmdBusy s)

/-- A command on entry k: E_INDEX and no other effect where k ≥ K_MAX (30_encoding.md R94 (2), 60_exceptions.md
R309). -/
def whenEntry (k : Nat) (s : State) (run : Host.Outcome State Fault Refusal) :
    Host.Outcome State Fault Refusal :=
  if k < s.params.kMax then run else .next (raise .eIndex s)

/-- A command that needs 1 ≤ N ≤ N_MAX: E_CONFIG and no other effect elsewhere (45_protocol.md R226, R227;
60_exceptions.md R304). -/
def whenLedCount (s : State) (run : Host.Outcome State Fault Refusal) : Host.Outcome State Fault Refusal :=
  if ledCountValid s then run else .next (raise .eConfig s)

/-! ## External calls (60_exceptions.md R330). Each answers none while its collaborator has not returned
(46_control.md R257), else the result and the state with the answer taken and the call noted. -/

def logCall (c : Call) (s : State) : State := { s with calls := s.calls ++ [c] }

/-- now() (44_governor.md R200). -/
def callNow (s : State) : Option (Nanos × State) :=
  match s.answers.times with
  | [] => none
  | t :: ts => some (t, logCall .now { s with answers := { s.answers with times := ts } })

/-- captureFrame(): true is Ok (60_exceptions.md R331). -/
def callCapture (s : State) : Option (Bool × State) :=
  match s.answers.captures with
  | [] => none
  | r :: rs => some (r, logCall .captureFrame { s with answers := { s.answers with captures := rs } })

/-- getStoredFrame() (60_exceptions.md R331). -/
def callFrame (s : State) : Option (Option Nat × State) :=
  match s.answers.frames with
  | [] => none
  | f :: fs => some (f, logCall .getStoredFrame { s with answers := { s.answers with frames := fs } })

/-- geometry() (60_exceptions.md R330). -/
def callGeometry (s : State) : Option ((Word × Word) × State) :=
  match s.answers.geometries with
  | [] => none
  | g :: gs => some (g, logCall .geometry { s with answers := { s.answers with geometries := gs } })

/-- captureReinit(); it cannot fail (60_exceptions.md R331). -/
def callReinit (s : State) : Option State :=
  match s.answers.reinits with
  | 0 => none
  | n + 1 => some (logCall .captureReinit { s with answers := { s.answers with reinits := n } })

/-- averageColor(token, i, W, H, TARGET_W, TARGET_H) for the iteration's frame, LED and geometry
(60_exceptions.md R332; 46_control.md R254). -/
def callAverage (s : State) : Option (Rgb8 × State) :=
  match s.answers.averages with
  | [] => none
  | c :: cs =>
    some (c, logCall (.averageColor s.iter.frame s.iter.led s.iter.srcW s.iter.srcH s.cfg.targetW s.cfg.targetH)
      { s with answers := { s.answers with averages := cs } })

/-- sleep(d) (44_governor.md R207). -/
def callSleep (d : Nanos) (s : State) : Option State :=
  match s.answers.sleeps with
  | 0 => none
  | n + 1 => some (logCall (.sleep d) { s with answers := { s.answers with sleeps := n } })

/-- What a transport call came to. -/
inductive WriteResult where
  /-- The call has not returned. -/
  | outstanding
  /-- The answer is outside the collaborator's contract (60_exceptions.md R333). -/
  | overreport
  /-- The call returned; `exact` says it reported Ok of the whole length. -/
  | returned (exact : Bool) (s : State)
  deriving DecidableEq, Repr

/-- write(B): Ok(k) puts the first k bytes on the wire, Err a drawn number of first bytes (60_exceptions.md
R333, 20_memory.md R68). Only Ok of the exact length is a success (45_protocol.md R222). -/
def callWrite (bytes : List Byte) (s : State) : WriteResult :=
  match s.answers.writes with
  | [] => .outstanding
  | .ok k :: ws =>
    if k ≤ bytes.length then
      .returned (k == bytes.length)
        (logCall (.write bytes)
          { s with wire := s.wire ++ bytes.take k, answers := { s.answers with writes := ws } })
    else .overreport
  | .err j :: ws =>
    .returned false
      (logCall (.write bytes)
        { s with wire := s.wire ++ bytes.take j, answers := { s.answers with writes := ws } })

/-- What an agent's next step comes to. -/
inductive Progress where
  /-- The external call it makes has not returned: it has no enabled step (46_control.md R250). -/
  | waiting
  | done (s : State)
  | refused (r : Refusal)
  deriving DecidableEq, Repr

/-- The step of an agent: where it has to wait, the state it waits in. -/
def settle (waitingState : State) : Progress → Host.Outcome State Fault Refusal
  | .waiting => .next waitingState
  | .done t => .next t
  | .refused r => .refused r

end Sys2Proof.Machine
end

