-- ==== Sys2Proof/Machine/ColorSpace.lean ====
section
/-! DEFINITION. The ColorSpace unit: to_hsv, to_rgb, RGB2HSV and HSV2RGB (40_colorspace.md). -/
namespace Sys2Proof.Machine

/-- M, the largest channel (40_colorspace.md R122). -/
def rgbMax (c : Rgb8) : Nat := max c.r.toNat (max c.g.toNat c.b.toNat)

/-- m, the smallest channel (40_colorspace.md R122). -/
def rgbMin (c : Rgb8) : Nat := min c.r.toNat (min c.g.toNat c.b.toNat)

/-- chroma = M - m (40_colorspace.md R122). -/
def rgbChroma (c : Rgb8) : Nat := rgbMax c - rgbMin c

/-- value (40_colorspace.md R122). -/
def hsvValue (c : Rgb8) : F32 := fdiv (f32OfInt (rgbMax c)) f32Byte

/-- saturation (40_colorspace.md R122). -/
def hsvSaturation (c : Rgb8) : F32 :=
  if rgbMax c = 0 then f32Zero else fdiv (f32OfInt (rgbChroma c)) (f32OfInt (rgbMax c))

/-- h6 of 40_colorspace.md R123; the first of r, g, b that is the maximum selects the branch. -/
def hueSixths (c : Rgb8) : F32 :=
  let chroma := f32OfInt (rgbChroma c)
  let r : Int := c.r.toNat
  let g : Int := c.g.toNat
  let b : Int := c.b.toNat
  if rgbMax c = c.r.toNat then fdiv (f32OfInt (g - b)) chroma
  else if rgbMax c = c.g.toNat then fadd (fdiv (f32OfInt (b - r)) chroma) f32Two
  else fadd (fdiv (f32OfInt (r - g)) chroma) f32Four

/-- hue (40_colorspace.md R123). -/
def hsvHue (c : Rgb8) : F32 :=
  if rgbChroma c = 0 then f32Zero
  else
    let hue := fdiv (hueSixths c) f32Six
    if flt hue f32Zero then fadd hue f32One else hue

/-- to_hsv (40_colorspace.md R122, R123). -/
def toHsv (c : Rgb8) : Hsv := { h := hsvHue c, s := hsvSaturation c, v := hsvValue c }

/-- ToByte(x · 255.0) (40_colorspace.md R124, R125). -/
def scaledByte (x : F32) : Byte := toByte (fmul x f32Byte)

/-- sector: floor(h6) mod 6 where h6 is finite, else 0 (40_colorspace.md R125). -/
def hueSector (h6 : F32) : Nat := if isFinite h6 then (floorInt h6 % 6).toNat else 0

/-- The three channel values before conversion, by sector (40_colorspace.md R125). -/
def sectorRow (sector : Nat) (v p q t : F32) : F32 × F32 × F32 :=
  match sector with
  | 0 => (v, t, p)
  | 1 => (q, v, p)
  | 2 => (p, v, t)
  | 3 => (p, q, v)
  | 4 => (t, p, v)
  | _ => (v, p, q)

/-- to_rgb where s ≠ 0.0, applied literally for every hue (40_colorspace.md R125, R128). -/
def toRgbChromatic (x : Hsv) : Rgb8 :=
  let h6 := fmul x.h f32Six
  let sector := hueSector h6
  let frac := fsub h6 (f32OfInt sector)
  let p := fmul x.v (fsub f32One x.s)
  let q := fmul x.v (fsub f32One (fmul x.s frac))
  let t := fmul x.v (fsub f32One (fmul x.s (fsub f32One frac)))
  let row := sectorRow sector x.v p q t
  { r := scaledByte row.1, g := scaledByte row.2.1, b := scaledByte row.2.2 }

/-- to_rgb (40_colorspace.md R124, R125): the grey of v where s = 0.0, and then h is not read. -/
def toRgb (x : Hsv) : Rgb8 :=
  if isZero x.s then { r := scaledByte x.v, g := scaledByte x.v, b := scaledByte x.v }
  else toRgbChromatic x

/-- 0 ≤ h < 1 (40_colorspace.md R128); -0.0 is in the range (log 21). -/
def hueInRange (h : F32) : Bool := !isNaN h && !flt h f32Zero && flt h f32One

/-- RGB2HSV (40_colorspace.md R126). -/
def execRgb2hsv (s : State) : Host.Outcome State Fault Refusal :=
  whenIdle s (.next { s with res := { s.res with
    resH := (toHsv s.opnd.opaRgb).h
    resS := (toHsv s.opnd.opaRgb).s
    resV := (toHsv s.opnd.opaRgb).v } })

/-- The HSV operand (40_colorspace.md R127). -/
def opaHsv (s : State) : Hsv := { h := s.opnd.opaH, s := s.opnd.opaS, v := s.opnd.opaV }

/-- Whether HSV2RGB's result bytes are a draw: HUE_OOR = unspecified, and the hue is read (s ≠ 0.0, R124) and
lies outside [0, 1) (40_colorspace.md R128; log 22). With v = 0.0 it is a draw too, by R128 and U3, although
R127 lists (0, 0, 0) for it (DEDUCED, log 27). -/
def hueDrawn (p : Params) (x : Hsv) : Bool :=
  p.hueOor == .unspecified && !isZero x.s && !hueInRange x.h

/-- Three drawn bytes, the free values numbered n, n + 1 and n + 2 (log 3). -/
def drawnRgb (n : Nat) : Rgb8 :=
  { r := Config.freeByte n, g := Config.freeByte (n + 1), b := Config.freeByte (n + 2) }

/-- HSV2RGB (40_colorspace.md R127, R128). -/
def execHsv2rgb (s : State) : Host.Outcome State Fault Refusal :=
  whenIdle s
    (if hueDrawn s.params (opaHsv s) then
      .next { s with res := { s.res with resRgb := drawnRgb s.draws }, draws := s.draws + 3 }
    else .next { s with res := { s.res with resRgb := toRgb (opaHsv s) } })

end Sys2Proof.Machine
end

