-- ==== Sys2Proof/Machine/Transformers.lean ====
section
/-! DEFINITION. The ChannelTransformer and the GainTransformer: CHAN and GAIN (41_transformers.md). -/
namespace Sys2Proof.Machine

/-- One ChannelSettings (10_state.md R44). -/
structure ChannelSettings where
  gamma : F32
  whitelevel : F32
  blacklevel : F32
  threshold : F32
  deriving DecidableEq, Repr

/-- A ChannelTransformer: one ChannelSettings per channel (10_state.md R44). -/
structure ChannelTransformer where
  red : ChannelSettings
  green : ChannelSettings
  blue : ChannelSettings
  deriving DecidableEq, Repr

/-- A GainTransformer (10_state.md R45). -/
structure GainTransformer where
  saturationGain : F32
  valueGain : F32
  deriving DecidableEq, Repr

/-- A free value kept inside [0, 1]: itself where it lies there (log 2). -/
def unitValue (a : F32) : F32 := if inUnit a then a else f32Zero

/-- POWF (41_transformers.md R141): properties (c), (b), (a) and (d) in this order, over a function that is
otherwise free. The functions this takes, over all free functions, are exactly those with the four
properties (log 2). -/
def powf (x y : F32) : F32 :=
  if x = f32One then f32One
  else if x = f32Zero ∧ flt f32Zero y then f32Zero
  else if y = f32One ∧ inUnit x then x
  else if inUnit x ∧ flt f32Zero y then unitValue (Config.powfFree x y)
  else Config.powfFree x y

/-- c'' of chan1, before the threshold (41_transformers.md R140). -/
def chanLevel (c : Byte) (t : ChannelSettings) : F32 :=
  fadd (fmul (fmul (powf (fdiv (f32OfInt c.toNat) f32Byte) t.gamma) t.whitelevel) (fsub f32One t.blacklevel))
    t.blacklevel

/-- chan1 (41_transformers.md R140). -/
def chan1 (c : Byte) (t : ChannelSettings) : Byte :=
  if flt (chanLevel c t) t.threshold then 0 else toByte (fmul (chanLevel c t) f32Byte)

/-- chan: three independent lanes (41_transformers.md R142). -/
def chanRgb (c : Rgb8) (t : ChannelTransformer) : Rgb8 :=
  { r := chan1 c.r t.red, g := chan1 c.g t.green, b := chan1 c.b t.blue }

/-- gclamp (41_transformers.md R144): NaN falls back to 1.0. -/
def gclamp (p : F32) : F32 := if isNaN p then f32One else if flt p f32One then p else f32One

/-- gain: the hue passes as the same bit pattern (41_transformers.md R144). A gain of +0.0 on a negative finite
number gives -0.0, by the pseudocode's IEEE product; R144's prose says +0.0 for finite inputs (DEDUCED, log 25). -/
def gainHsv (x : Hsv) (g : GainTransformer) : Hsv :=
  { h := x.h, s := gclamp (fmul x.s g.saturationGain), v := gclamp (fmul x.v g.valueGain) }

/-- The ChannelSettings whose first word is word w of XF[k] (10_state.md R44). -/
def xfSettings (s : State) (k w : Nat) : ChannelSettings :=
  { gamma := xfWord s k w, whitelevel := xfWord s k (w + 1), blacklevel := xfWord s k (w + 2),
    threshold := xfWord s k (w + 3) }

/-- The ChannelTransformer of XF[k]: words 2 to 13 (10_state.md R44). -/
def xfChannel (s : State) (k : Nat) : ChannelTransformer :=
  { red := xfSettings s k 2, green := xfSettings s k 6, blue := xfSettings s k 10 }

/-- The GainTransformer of XF[k]: words 14 and 15 (10_state.md R45). -/
def xfGain (s : State) (k : Nat) : GainTransformer :=
  { saturationGain := xfWord s k 14, valueGain := xfWord s k 15 }

/-- CHAN (41_transformers.md R147). -/
def execChan (k : Nat) (s : State) : Host.Outcome State Fault Refusal :=
  whenIdle s (whenEntry k s
    (.next { s with res := { s.res with resRgb := chanRgb s.opnd.opaRgb (xfChannel s k) } }))

/-- The HSV that GAIN computes (41_transformers.md R148). -/
def gainResult (k : Nat) (s : State) : Hsv :=
  gainHsv { h := s.opnd.opaH, s := s.opnd.opaS, v := s.opnd.opaV } (xfGain s k)

/-- GAIN (41_transformers.md R148). -/
def execGain (k : Nat) (s : State) : Host.Outcome State Fault Refusal :=
  whenIdle s (whenEntry k s
    (.next { s with res := { s.res with
      resH := (gainResult k s).h, resS := (gainResult k s).s, resV := (gainResult k s).v } }))

end Sys2Proof.Machine
end

