-- ==== Sys2Proof/Machine/Pipeline.lean ====
section
/-! DEFINITION. The TransformPipeline: PIPE (42_pipeline.md). -/
namespace Sys2Proof.Machine

/-- The accumulator: a colour in the representation it is held in (10_state.md R55, 42_pipeline.md R160). -/
inductive Color where
  | rgb (c : Rgb8)
  | hsv (x : Hsv)
  deriving DecidableEq, Repr

/-- asRGB: no conversion where the colour is held as RGB (42_pipeline.md R160). -/
def asRgb : Color → Rgb8
  | .rgb c => c
  | .hsv x => toRgb x

/-- asHSV: no conversion where the colour is held as HSV (42_pipeline.md R160). -/
def asHsv : Color → Hsv
  | .rgb c => toHsv c
  | .hsv x => x

/-- HAS_CHAN of XF[k] (10_state.md R42). -/
def xfHasChan (s : State) (k : Nat) : Bool := (xfWord s k 0).getLsbD 0

/-- HAS_GAIN of XF[k] (10_state.md R42). -/
def xfHasGain (s : State) (k : Nat) : Bool := (xfWord s k 0).getLsbD 1

/-- FIRST of XF[k] (10_state.md R43). -/
def xfFirst (s : State) (k : Nat) : Nat := ((xfWord s k 1).extractLsb' 0 16).toNat

/-- LAST of XF[k] (10_state.md R43). -/
def xfLast (s : State) (k : Nat) : Nat := ((xfWord s k 1).extractLsb' 16 16).toNat

/-- Whether XF[k] applies to LED i: the range is inclusive (42_pipeline.md R161). -/
def xfCovers (s : State) (i k : Nat) : Bool := xfFirst s k ≤ i && i ≤ xfLast s k

/-- The pair list of LED i: the covering entries among the first K, in table order (42_pipeline.md R161); no
entry from K_MAX on is read (R165). -/
def pairList (s : State) (i : Nat) : List Nat :=
  (List.range (min (xformK s) s.params.kMax)).filter (xfCovers s i)

/-- One fold step, by the entry's variant (42_pipeline.md R162). -/
def foldStep (s : State) (acc : Color) (k : Nat) : Color :=
  match xfHasChan s k, xfHasGain s k with
  | true, true => .hsv (gainHsv (asHsv (.rgb (chanRgb (asRgb acc) (xfChannel s k)))) (xfGain s k))
  | true, false => .rgb (chanRgb (asRgb acc) (xfChannel s k))
  | false, true => .hsv (gainHsv (asHsv acc) (xfGain s k))
  | false, false => acc

/-- pipeline(i, avg) (42_pipeline.md R163). -/
def pipeline (s : State) (i : Nat) (avg : Rgb8) : Rgb8 :=
  asRgb ((pairList s i).foldl (foldStep s) (.rgb avg))

/-- PIPE (42_pipeline.md R165). -/
def execPipe (i : Nat) (s : State) : Host.Outcome State Fault Refusal :=
  whenIdle s (.next { s with res := { s.res with resRgb := pipeline s i s.opnd.opaRgb } })

end Sys2Proof.Machine
end

