-- ==== Sys2Proof/Machine/Protocol.lean ====
section
/-! DEFINITION. The ProtocolWriter: the wire format, frame emission, HDR and EMIT (45_protocol.md). -/
namespace Sys2Proof.Machine

/-- countHigh of N LEDs (45_protocol.md R220). -/
def countHigh (n : Nat) : Byte := BitVec.ofNat 8 ((n - 1) / 256)

/-- countLow of N LEDs (45_protocol.md R220). -/
def countLow (n : Nat) : Byte := BitVec.ofNat 8 (n - 1)

/-- The checksum byte (45_protocol.md R220). -/
def headerChecksum (n : Nat) : Byte := countHigh n ^^^ countLow n ^^^ 0x55#8

/-- The six header bytes (45_protocol.md R220). -/
def header (n : Nat) : List Byte :=
  [0x41#8, 0x64#8, 0x61#8, countHigh n, countLow n, headerChecksum n]

/-- The payload: the RGB triples in LED index order (45_protocol.md R221). -/
def payload (s : State) (n : Nat) : List Byte :=
  (List.range n).flatMap (fun i => [(readOut s i).r, (readOut s i).g, (readOut s i).b])

/-- What one of the two writes of a frame came to. -/
inductive Sent where
  | waiting
  | refused (r : Refusal)
  | sent (s : State)
  | dropped (s : State)
  deriving DecidableEq, Repr

/-- The header write of emitFrame (45_protocol.md R222). -/
def sendHeader (s : State) : Sent :=
  match callWrite (header (ledN s)) s with
  | .outstanding => .waiting
  | .overreport => .refused .transportOverreport
  | .returned true t => .sent t
  | .returned false t => .dropped (dropFrame (raise .eTxHdr t))

/-- The payload write of emitFrame; the payload is read now (45_protocol.md R222, R224). -/
def sendPayload (s : State) : Sent :=
  match callWrite (payload s (ledN s)) s with
  | .outstanding => .waiting
  | .overreport => .refused .transportOverreport
  | .returned true t => .sent { t with cnt := { t.cnt with framesSent := t.cnt.framesSent + 1 } }
  | .returned false t => .dropped (dropFrame (raise .eTxPay t))

/-- EMIT from its payload write on: the CMD write completes when it returns (45_protocol.md R227). -/
def emitPayloadPart (s : State) : Progress :=
  match sendPayload s with
  | .waiting => .waiting
  | .refused r => .refused r
  | .sent t => .done { t with cmdWait := none }
  | .dropped t => .done { t with cmdWait := none }

/-- EMIT from its header write on: both writes where both return, else up to the one that does not
(45_protocol.md R222, R227; log 7). -/
def emitWholeFrame (s : State) : Progress :=
  match sendHeader s with
  | .waiting => .waiting
  | .refused r => .refused r
  | .dropped t => .done { t with cmdWait := none }
  | .sent t =>
    match emitPayloadPart t with
    | .waiting => .done { t with cmdWait := some .emitPayload }
    | p => p

/-- HDR (45_protocol.md R226): RES_HDR0 holds bytes 0 to 3 and RES_HDR1 bytes 4 and 5, the first lowest. -/
def execHdr (s : State) : Host.Outcome State Fault Refusal :=
  whenIdle s (whenLedCount s (.next { s with res := { s.res with
    resHdr0 := countHigh (ledN s) ++ 0x61#8 ++ 0x64#8 ++ 0x41#8
    resHdr1 := headerChecksum (ledN s) ++ countLow (ledN s) } }))

/-- EMIT (45_protocol.md R227). -/
def execEmit (s : State) : Host.Outcome State Fault Refusal :=
  whenIdle s (whenLedCount s (settle { s with cmdWait := some .emitHeader } (emitWholeFrame s)))

end Sys2Proof.Machine
end

