-- ==== Sys2Proof/Machine/Control.lean ====
section
/-! DEFINITION. NOP, START and STOP, and the resumption of a CMD write that waits for an external call
(46_control.md). -/
namespace Sys2Proof.Machine

/-- NOP (46_control.md R243): accepted in every state, changes nothing. -/
def execNop (s : State) : Host.Outcome State Fault Refusal := .next s

/-- gamma > 0 and blacklevel in [0, 1] (46_control.md R241). -/
def settingsValid (t : ChannelSettings) : Bool :=
  flt f32Zero t.gamma && !isNaN t.blacklevel && !flt t.blacklevel f32Zero && !flt f32One t.blacklevel

/-- gain ≥ 0, not NaN (46_control.md R241). -/
def gainValid (g : F32) : Bool := !isNaN g && !flt g f32Zero

/-- START's check of entry k (46_control.md R241). -/
def entryValid (s : State) (k : Nat) : Bool :=
  (xfFirst s k ≤ xfLast s k && xfLast s k < ledN s) &&
  (!xfHasChan s k || (settingsValid (xfChannel s k).red && settingsValid (xfChannel s k).green &&
    settingsValid (xfChannel s k).blue)) &&
  (!xfHasGain s k || (gainValid (xfGain s k).saturationGain && gainValid (xfGain s k).valueGain))

/-- START's check of the configuration (46_control.md R241). -/
def configValid (s : State) : Bool :=
  ledCountValid s && xformK s ≤ s.params.kMax && (List.range (xformK s)).all (entryValid s)

/-- What START clears (46_control.md R241). -/
def clearForRun (s : State) : State :=
  { s with
    mem := clearRange s.mem (outAddr 0) (outEnd s.params)
    cnt := Counters.zero
    stopPend := false
    gov := { s.gov with cswStart := 0, capValid := false } }

/-- START from its now() on: the sequencer becomes ACTIVE at S0 (46_control.md R241). -/
def startClockPart (s : State) : Progress :=
  match callNow s with
  | none => .waiting
  | some (t, u) => .done { u with gov := { u.gov with rswStart := t }, pos := .boundary, cmdWait := none }

/-- START (46_control.md R241): an invalid configuration raises E_CONFIG and changes nothing else (60_exceptions.md
R304). -/
def execStart (s : State) : Host.Outcome State Fault Refusal :=
  whenIdle s
    (if configValid s then
      settle { clearForRun s with cmdWait := some .startClock } (startClockPart (clearForRun s))
    else .next (raise .eConfig s))

/-- STOP (46_control.md R242): accepted in every state, without effect in IDLE. -/
def execStop (s : State) : Host.Outcome State Fault Refusal :=
  if s.pos = .idle then .next s else .next { s with stopPend := true }

/-- The CMD write that waits, from the call it waits for on (46_control.md R240). -/
def resumeCommand (w : CmdWait) (s : State) : Progress :=
  match w with
  | .startClock => startClockPart s
  | .emitHeader => emitWholeFrame s
  | .emitPayload => emitPayloadPart s

end Sys2Proof.Machine
end

