-- ==== Sys2Proof/Machine/Smoothing.lean ====
section
/-! DEFINITION. The SmoothingFilter: SMOOTH and FACTOR (43_smoothing.md). -/
namespace Sys2Proof.Machine

/-- TCeff: a time constant of 0 is read as 1 ns (43_smoothing.md R180). -/
def effectiveTc (tc : Nanos) : Nanos := if tc = 0 then 1 else tc

/-- factor(dt) (43_smoothing.md R181). -/
def smoothingFactor (dt tc : Nanos) : F32 :=
  fdiv (f32OfInt dt.toNat) (f32OfInt (effectiveTc tc).toNat)

/-- fc, the factor clamped to [0, 1]; NaN and negative factors give 0.0 (43_smoothing.md R183). -/
def clampFactor (f : F32) : F32 :=
  if isNaN f || flt f f32Zero then f32Zero else if flt f32One f then f32One else f

/-- One channel of the policy "linear" (43_smoothing.md R183). -/
def smoothChannel (prev tgt : Byte) (f : F32) : Byte :=
  BitVec.ofInt 8 ((prev.toNat : Int) +
    truncInt (fmul (f32OfInt ((tgt.toNat : Int) - (prev.toNat : Int))) (clampFactor f)))

/-- smooth (43_smoothing.md R182, R183, R185): `linear` is CTRL.POLICY. -/
def smoothRgb (linear : Bool) (prev tgt : Rgb8) (f : F32) : Rgb8 :=
  if linear then
    { r := smoothChannel prev.r tgt.r f, g := smoothChannel prev.g tgt.g f,
      b := smoothChannel prev.b tgt.b f }
  else tgt

/-- SMOOTH (43_smoothing.md R186). -/
def execSmooth (s : State) : Host.Outcome State Fault Refusal :=
  whenIdle s (.next { s with res := { s.res with
    resRgb := smoothRgb s.cfg.policy s.opnd.opbRgb s.opnd.opaRgb s.opnd.opaF } })

/-- FACTOR (43_smoothing.md R187). -/
def execFactor (s : State) : Host.Outcome State Fault Refusal :=
  whenIdle s (.next { s with res := { s.res with resF := smoothingFactor (opaDtOf s) (tcOf s) } })

end Sys2Proof.Machine
end

