-- ==== Sys2Proof/Machine/Dispatch.lean ====
section
/-! DEFINITION. One arm per command (30_encoding.md R92). -/
namespace Sys2Proof.Machine

def exec (i : Instr) (s : State) : Host.Outcome State Fault Refusal :=
  match i with
  | .nop _ => Sys2Proof.Machine.execNop s
  | .rgb2hsv _ => Sys2Proof.Machine.execRgb2hsv s
  | .hsv2rgb _ => Sys2Proof.Machine.execHsv2rgb s
  | .chan k => Sys2Proof.Machine.execChan k s
  | .gain k => Sys2Proof.Machine.execGain k s
  | .pipe j => Sys2Proof.Machine.execPipe j s
  | .smooth _ => Sys2Proof.Machine.execSmooth s
  | .factor _ => Sys2Proof.Machine.execFactor s
  | .hdr _ => Sys2Proof.Machine.execHdr s
  | .emit _ => Sys2Proof.Machine.execEmit s
  | .start _ => Sys2Proof.Machine.execStart s
  | .stop _ => Sys2Proof.Machine.execStop s

end Sys2Proof.Machine
end

