-- ==== Sys2Proof/Machine/Governor.lean ====
section
/-! DEFINITION. The FrameGovernor: two stopwatches over the external time source (44_governor.md). -/
namespace Sys2Proof.Machine

/-- elapsed(SW, t): the time since the start, and 0 for a reading before it (44_governor.md R201). -/
def elapsedSince (start t : Nanos) : Nanos := if start ≤ t then t - start else 0

/-- SW.start after elapsed(SW, t): a backward reading restarts the stopwatch (44_governor.md R201; D20). -/
def startAfter (start t : Nanos) : Nanos := if start ≤ t then start else t

/-- S1, the refresh tick (44_governor.md R205). -/
def stepTick (s : State) : Progress :=
  match callNow s with
  | none => .waiting
  | some (t, u) =>
    let dt := elapsedSince u.gov.rswStart t
    .done { u with
      gov := { u.gov with rswStart := t }
      cnt := { u.cnt with lastDtLo := loWord dt, lastDtHi := hiWord dt,
                          lastFactor := smoothingFactor dt (tcOf u) }
      iter := { u.iter with dt := dt, factor := smoothingFactor dt (tcOf u) }
      pos := .capCheck }

/-- S2, the capture decision: always an attempt, with no time read, until a capture has succeeded
(44_governor.md R203, R208). -/
def stepCapCheck (s : State) : Progress :=
  if s.gov.capValid then
    match callNow s with
    | none => .waiting
    | some (t, u) =>
      .done { u with
        gov := { u.gov with cswStart := startAfter u.gov.cswStart t }
        pos := if capivOf u < elapsedSince u.gov.cswStart t then .capture else .frame }
  else .done { s with pos := .capture }

/-- S3, captureFrame(): Err leaves the limiter as it is (44_governor.md R204; 46_control.md R250). -/
def stepCapture (s : State) : Progress :=
  match callCapture s with
  | none => .waiting
  | some (true, u) => .done { u with pos := .captured }
  | some (false, u) => .done { u with pos := .capFail }

/-- S3 after Ok: the capture limiter restarts at a fresh reading (44_governor.md R204). -/
def stepCaptured (s : State) : Progress :=
  match callNow s with
  | none => .waiting
  | some (t, u) => .done { u with gov := { u.gov with cswStart := t, capValid := true }, pos := .frame }

/-- S8 up to its sleep: no sleep where the iteration used the whole budget (44_governor.md R206). -/
def stepPace (s : State) : Progress :=
  match callNow s with
  | none => .waiting
  | some (t, u) =>
    let el := elapsedSince u.gov.rswStart t
    .done { u with
      gov := { u.gov with rswStart := startAfter u.gov.rswStart t }
      pos := if el < refreshOf u then .paceSleep (refreshOf u - el) else .finish }

/-- S8 in its sleep (44_governor.md R206, R207). -/
def stepPaceSleep (d : Nanos) (s : State) : Progress :=
  match callSleep d s with
  | none => .waiting
  | some u => .done { u with pos := .finish }

end Sys2Proof.Machine
end

