-- ==== Sys2Proof/Machine/MainLoop.lean ====
section
/-! DEFINITION. The MainLoop sequencer, S0 to S9 (46_control.md R250). -/
namespace Sys2Proof.Machine

/-- S0, the iteration boundary (46_control.md R251). -/
def stepBoundary (s : State) : Progress :=
  if s.stopPend then .done { s with stopPend := false, pos := .idle }
  else if s.cfg.iterLimit ≠ 0 ∧ s.cnt.iterCount = s.cfg.iterLimit then .done { s with pos := .idle }
  else .done { s with pos := .tick }

/-- S4 up to its sleep: the event is counted; BACKOFF = 0 makes no sleep call (46_control.md R252). -/
def stepCapFail (s : State) : Progress :=
  let u := raise .eCapture { s with cnt := { s.cnt with captureFails := s.cnt.captureFails + 1 } }
  .done { u with pos := if backoffOf s = 0 then .reinit else .backoffSleep }

/-- S4 in its sleep (46_control.md R252). -/
def stepBackoffSleep (s : State) : Progress :=
  match callSleep (backoffOf s) s with
  | none => .waiting
  | some u => .done { u with pos := .reinit }

/-- S4 at captureReinit(); the rest of the iteration is skipped (46_control.md R252). -/
def stepReinit (s : State) : Progress :=
  match callReinit s with
  | none => .waiting
  | some u => .done { u with pos := .finish }

/-- S5 at getStoredFrame(); without a frame the iteration goes on at the pace sleep (46_control.md R253). -/
def stepFrame (s : State) : Progress :=
  match callFrame s with
  | none => .waiting
  | some (none, u) =>
    .done { raise .eNoFrame { u with cnt := { u.cnt with noFrameCount := u.cnt.noFrameCount + 1 } } with
      pos := .pace }
  | some (some tok, u) => .done { u with iter := { u.iter with frame := tok }, pos := .geometry }

/-- S5 at geometry() (46_control.md R250). -/
def stepGeometry (s : State) : Progress :=
  match callGeometry s with
  | none => .waiting
  | some (g, u) =>
    .done { u with
      iter := { u.iter with srcW := g.1, srcH := g.2, led := 0 }
      pos := if ledN u = 0 then .emitHeader else .led }

/-- The new OUTBUF[i] of S6 from the averaged colour (46_control.md R254). -/
def ledColor (s : State) (avg : Rgb8) : Rgb8 :=
  smoothRgb s.cfg.policy (readOut s s.iter.led) (pipeline s s.iter.led avg) s.iter.factor

/-- S6 for one LED (46_control.md R250, R254). -/
def stepLed (s : State) : Progress :=
  match callAverage s with
  | none => .waiting
  | some (avg, u) =>
    .done { u with
      mem := writeOut u.mem u.iter.led (ledColor u avg)
      iter := { u.iter with led := u.iter.led + 1 }
      pos := if u.iter.led + 1 < ledN u then .led else .emitHeader }

/-- S7 at the header write; a dropped frame goes on at S8 (46_control.md R255, 45_protocol.md R222). -/
def stepEmitHeader (s : State) : Progress :=
  match sendHeader s with
  | .waiting => .waiting
  | .refused r => .refused r
  | .sent u => .done { u with pos := .emitPayload }
  | .dropped u => .done { u with pos := .pace }

/-- S7 at the payload write (45_protocol.md R222). -/
def stepEmitPayload (s : State) : Progress :=
  match sendPayload s with
  | .waiting => .waiting
  | .refused r => .refused r
  | .sent u => .done { u with pos := .pace }
  | .dropped u => .done { u with pos := .pace }

/-- S9 (46_control.md R250). -/
def stepFinish (s : State) : Progress :=
  .done { s with cnt := { s.cnt with iterCount := s.cnt.iterCount + 1 }, pos := .boundary }

/-- The sequencer's next step (46_control.md R250); in IDLE it has none. -/
def seqProgress (s : State) : Progress :=
  match s.pos with
  | .idle => .waiting
  | .boundary => stepBoundary s
  | .tick => stepTick s
  | .capCheck => stepCapCheck s
  | .capture => stepCapture s
  | .captured => stepCaptured s
  | .capFail => stepCapFail s
  | .backoffSleep => stepBackoffSleep s
  | .reinit => stepReinit s
  | .frame => stepFrame s
  | .geometry => stepGeometry s
  | .led => stepLed s
  | .emitHeader => stepEmitHeader s
  | .emitPayload => stepEmitPayload s
  | .pace => stepPace s
  | .paceSleep d => stepPaceSleep d s
  | .finish => stepFinish s

end Sys2Proof.Machine
end

