-- ==== Sys2Proof/Machine/HostBus.lean ====
section
/-! DEFINITION. Host accesses: reads, writes, the issue of a command, and reset (20_memory.md, 10_state.md R51,
60_exceptions.md R310, 70_reset_and_hazards.md R341). -/
namespace Sys2Proof.Machine

/-- What a register reads (10_state.md R21 to R40, R52). -/
def readReg (s : State) : Reg → Word
  | .id => 0x53470001#32
  | .ctrl => 0#31 ++ BitVec.ofBool s.cfg.policy
  | .status => statusWord s
  | .cmd => 0#32
  | .ledCount => 0#15 ++ s.cfg.ledCount
  | .xformCount => 0#25 ++ s.cfg.xformCount
  | .iterLimit => s.cfg.iterLimit
  | .tcLo => s.cfg.tcLo
  | .tcHi => s.cfg.tcHi
  | .refreshLo => s.cfg.refreshLo
  | .refreshHi => s.cfg.refreshHi
  | .capivLo => s.cfg.capivLo
  | .capivHi => s.cfg.capivHi
  | .backoffLo => s.cfg.backoffLo
  | .backoffHi => s.cfg.backoffHi
  | .targetW => s.cfg.targetW
  | .targetH => s.cfg.targetH
  | .iterCount => s.cnt.iterCount
  | .framesSent => s.cnt.framesSent
  | .framesDropped => s.cnt.framesDropped
  | .captureFails => s.cnt.captureFails
  | .noFrameCount => s.cnt.noFrameCount
  | .lastDtLo => s.cnt.lastDtLo
  | .lastDtHi => s.cnt.lastDtHi
  | .lastFactor => s.cnt.lastFactor
  | .opaRgb => packRgb s.opnd.opaRgb
  | .opbRgb => packRgb s.opnd.opbRgb
  | .opaH => s.opnd.opaH
  | .opaS => s.opnd.opaS
  | .opaV => s.opnd.opaV
  | .opaF => s.opnd.opaF
  | .opaDtLo => s.opnd.opaDtLo
  | .opaDtHi => s.opnd.opaDtHi
  | .resRgb => packRgb s.res.resRgb
  | .resH => s.res.resH
  | .resS => s.res.resS
  | .resV => s.res.resV
  | .resF => s.res.resF
  | .resHdr0 => s.res.resHdr0
  | .resHdr1 => 0#16 ++ s.res.resHdr1

/-- What an RW register becomes; reserved bits are dropped (10_state.md R22, R27 to R39, R52). A register of
another class is left as it is: `hostWrite` does not come here for one. -/
def setReg (r : Reg) (v : Word) (s : State) : State :=
  match r with
  | .ctrl => { s with cfg := { s.cfg with policy := v.getLsbD 0 } }
  | .ledCount => { s with cfg := { s.cfg with ledCount := v.extractLsb' 0 17 } }
  | .xformCount => { s with cfg := { s.cfg with xformCount := v.extractLsb' 0 7 } }
  | .iterLimit => { s with cfg := { s.cfg with iterLimit := v } }
  | .tcLo => { s with cfg := { s.cfg with tcLo := v } }
  | .tcHi => { s with cfg := { s.cfg with tcHi := v } }
  | .refreshLo => { s with cfg := { s.cfg with refreshLo := v } }
  | .refreshHi => { s with cfg := { s.cfg with refreshHi := v } }
  | .capivLo => { s with cfg := { s.cfg with capivLo := v } }
  | .capivHi => { s with cfg := { s.cfg with capivHi := v } }
  | .backoffLo => { s with cfg := { s.cfg with backoffLo := v } }
  | .backoffHi => { s with cfg := { s.cfg with backoffHi := v } }
  | .targetW => { s with cfg := { s.cfg with targetW := v } }
  | .targetH => { s with cfg := { s.cfg with targetH := v } }
  | .opaRgb => { s with opnd := { s.opnd with opaRgb := unpackRgb v } }
  | .opbRgb => { s with opnd := { s.opnd with opbRgb := unpackRgb v } }
  | .opaH => { s with opnd := { s.opnd with opaH := v } }
  | .opaS => { s with opnd := { s.opnd with opaS := v } }
  | .opaV => { s with opnd := { s.opnd with opaV := v } }
  | .opaF => { s with opnd := { s.opnd with opaF := v } }
  | .opaDtLo => { s with opnd := { s.opnd with opaDtLo := v } }
  | .opaDtHi => { s with opnd := { s.opnd with opaDtHi := v } }
  | .id | .status | .cmd | .iterCount | .framesSent | .framesDropped | .captureFails | .noFrameCount => s
  | .lastDtLo | .lastDtHi | .lastFactor => s
  | .resRgb | .resH | .resS | .resV | .resF | .resHdr0 | .resHdr1 => s

/-- Whether an access has the one legal form: 32 bits at a multiple of 4 (20_memory.md R65). -/
def accessOk (a : BitVec 20) (width : Nat) : Bool := width == 4 && a.toNat % 4 == 0

/-- The target of an access; an access of another form selects nothing (20_memory.md R62, R65). -/
def accessTarget (s : State) (a : BitVec 20) (width : Nat) : Target :=
  if accessOk a width then targetOf s.params a.toNat else .unmapped

/-- MemRead(a, width) (20_memory.md R62, R65, R66): E_BUS and 0 where nothing is mapped, else the word and no
other effect. -/
def hostRead (a : BitVec 20) (width : Nat) (s : State) : State :=
  match accessTarget s a width with
  | .reg r => { s with readData := readReg s r }
  | .xf k w => { s with readData := xfWord s k w }
  | .outbuf i => { s with readData := readWord s.mem (outAddr i) }
  | .unmapped => raise .eBus { s with readData := 0 }

/-- A write of CMD issues the command (10_state.md R26, 46_control.md R240); an illegal word raises
E_CMD_ILLEGAL and has no other effect (30_encoding.md R93, 60_exceptions.md R306). -/
def issueCommand (w : Word) (s : State) : Host.Outcome State Fault Refusal :=
  match decode w with
  | .ok i => exec i s
  | .error _ => .next (raise .eCmdIllegal s)

/-- The bits a transform-table word implements: CTL, word 0, has two (10_state.md R42, R52). -/
def xfWordMask (w : Nat) (v : Word) : Word := if w = 0 then v &&& 3#32 else v

/-- An RW-idle write: E_WR_BUSY and no other effect while seq ≠ IDLE (10_state.md R51, 60_exceptions.md R308). -/
def whenWritable (s : State) (written : State) : State :=
  if s.pos = .idle then written else raise .eWrBusy s

/-- A write of a register, by its access class (10_state.md R51). -/
def writeReg (r : Reg) (v : Word) (s : State) : Host.Outcome State Fault Refusal :=
  match regClass r with
  | .ro => .next (raise .eBus s)
  | .rwAny => .next (setReg r v s)
  | .rwIdle => .next (whenWritable s (setReg r v s))
  | .w1c => .next { s with sticky := stickyCleared s.sticky v }
  | .wo => issueCommand v s

/-- MemWrite(a, width, v) (20_memory.md R62, R65; 10_state.md R46, R51; 60_exceptions.md R310, R313). -/
def hostWrite (a : BitVec 20) (width : Nat) (v : Word) (s : State) : Host.Outcome State Fault Refusal :=
  match accessTarget s a width with
  | .reg r => writeReg r v s
  | .xf k w => .next (whenWritable s { s with mem := writeWord s.mem (xfAddr k w) (xfWordMask w v) })
  | .outbuf _ => .next (raise .eBus s)
  | .unmapped => .next (raise .eBus s)

/-- The bytes of the transport write the block is in: EMIT's or the sequencer's, none where it is in no write
(45_protocol.md R222). -/
def outstandingBytes (s : State) : List Byte :=
  match s.cmdWait, s.pos with
  | some .emitHeader, _ => header (ledN s)
  | some .emitPayload, _ => payload s (ledN s)
  | some .startClock, _ => []
  | none, .emitHeader => header (ledN s)
  | none, .emitPayload => payload s (ledN s)
  | none, _ => []

/-- Reset at any time (70_reset_and_hazards.md R340, R341): the reset state, an iteration or a waiting command
abandoned. Of an abandoned transport write any number of first bytes, `accepted`, is on the wire (U17 of
93_implementation_defined.md), and its result is discarded: `answers` is what the calls made from now on get. The
instance's parameters and what else lies outside the block stay: the wire so far, what the outside world goes on
to do, what has been observed, and the numbering of free values (log 10). -/
def applyReset (accepted : Nat) (answers : Answers) (s : State) : State :=
  { State.reset with
    params := s.params, wire := s.wire ++ (outstandingBytes s).take accepted, pending := s.pending,
    later := s.later, answers := answers, readData := s.readData, calls := s.calls, draws := s.draws }

/-- Some answers, then others (60_exceptions.md R330). -/
def Answers.append (a b : Answers) : Answers :=
  { times := a.times ++ b.times, captures := a.captures ++ b.captures, frames := a.frames ++ b.frames
    geometries := a.geometries ++ b.geometries, reinits := a.reinits + b.reinits
    averages := a.averages ++ b.averages, writes := a.writes ++ b.writes, sleeps := a.sleeps + b.sleeps }

/-- More answers of the collaborators come; nothing takes one yet (60_exceptions.md R330; log 4). -/
def receive (more : Answers) (s : State) : State := { s with answers := s.answers.append more }

/-- Whether an action is a reset. -/
def isReset : HostAction → Bool
  | .read _ _ => false
  | .write _ _ _ => false
  | .reset _ _ => true
  | .answer _ => false

/-- Whether an action is a host access (20_memory.md R66). -/
def isAccess : HostAction → Bool
  | .read _ _ => true
  | .write _ _ _ => true
  | .reset _ _ => false
  | .answer _ => false

/-- One action of the outside world, as one step (20_memory.md R70). -/
def perform (act : HostAction) (s : State) : Host.Outcome State Fault Refusal :=
  match act with
  | .read a width => .next (hostRead a width s)
  | .write a width v => hostWrite a width v s
  | .reset accepted answers => .next (applyReset accepted answers s)
  | .answer more => .next (receive more s)

/-- The block's own next step: the command a CMD write waits in, else the sequencer (46_control.md R240, R250). -/
def ownProgress (s : State) : Progress :=
  match s.cmdWait with
  | some w => resumeCommand w s
  | none => seqProgress s

/-- Whether the block has a step of its own enabled (46_control.md R250, R257). -/
def ownEnabled (s : State) : Bool :=
  match ownProgress s with
  | .waiting => false
  | .done _ => true
  | .refused _ => true

/-- The block's own step; where nothing is enabled, nothing changes: a hang, not a fault (46_control.md R257). -/
def ownStep (s : State) : Host.Outcome State Fault Refusal := settle s (ownProgress s)

/-- Whether the next request can take effect: while a CMD write waits, the host makes no other access, but a
reset and answers can come (46_control.md R240, U10 of 93_implementation_defined.md; log 24). -/
def requestOpen (s : State) (act : HostAction) : Bool := s.cmdWait.isNone || !isAccess act

/-- With no request listed, the outside world's later ones are listed (70_reset_and_hazards.md R348; log 26). -/
def replenish (s : State) : State :=
  match s.pending with
  | _ :: _ => s
  | [] =>
    match s.later with
    | .quiet => s
    | .polls round => { s with pending := round }
    | .free n => { s with pending := Config.freeRequests n, later := .free (n + 1) }

/-- The address of CMD (10_state.md R26). -/
def cmdAddr : BitVec 20 := BitVec.ofNat 20 (regOffset .cmd)

/-- The host access that issues the command word w. -/
def commandRequest (w : Word) : Request := { after := 0, act := .write cmdAddr 4 w }

end Sys2Proof.Machine
end

