-- ==== Sys2Proof/Machine/Step.lean ====
section
/-! DEFINITION. One step of SG-CORE: an action of the outside world or a step of the sequencer
(20_memory.md R70). -/
namespace Sys2Proof.Machine

/-- One step with the requests that are listed (20_memory.md R70). With one that can take effect, the block's
own step comes first as long as the request's count says so and one is enabled (log 5); with none, the block
steps alone. -/
def stepListed (s : State) : Host.Outcome State Fault Refusal :=
  match s.pending with
  | [] => ownStep s
  | r :: rest =>
    if requestOpen s r.act then
      if r.after ≠ 0 ∧ ownEnabled s then
        ownStep { s with pending := { r with after := r.after - 1 } :: rest }
      else perform r.act { s with pending := rest }
    else ownStep s

/-- One step (20_memory.md R70). The outside world's requests need not come to an end, and one that polls for
ever can keep the sequencer from ever taking a step (70_reset_and_hazards.md R348; log 26). -/
def step (s : State) : Host.Outcome State Fault Refusal := stepListed (replenish s)

/-- The state with the command word whose low `nbits` bits are w as the host's next access, a write of CMD
(30_encoding.md R90), and no earlier CMD write in progress, so that the next step issues it (log 13). -/
def State.withFetchWord (s : State) (nbits w : Nat) : State :=
  { s with pending := commandRequest (BitVec.ofNat 32 (w % 2 ^ nbits)) :: s.pending, cmdWait := none }

end Sys2Proof.Machine
end

