-- ==== Sys2Proof/Safety.lean ====
section
/-! DEFINITION. What holds of SG-CORE in every state a run meets, and what is promised of it. -/
namespace Sys2Proof.Machine

/-- Every listed byte lies in the transform-table window or in the output-buffer window (20_memory.md R61). -/
def MemMapped (s : State) : Prop :=
  ∀ c ∈ s.mem, (xfAddr 0 0 ≤ c.1 ∧ c.1 < xfEnd s.params) ∨ (outAddr 0 ≤ c.1 ∧ c.1 < outEnd s.params)

/-- Reserved bits read 0: bits [31:2] of every CTL word and bits [31:24] of every output-buffer word
(10_state.md R42, R46, R52). -/
def ReservedZero (s : State) : Prop :=
  (∀ k, k < s.params.kMax → xfWord s k 0 &&& ~~~3#32 = 0) ∧ ∀ i, readByte s.mem (outAddr i + 3) = 0

/-- A CMD write waits only while the sequencer is IDLE, START only with a valid configuration and EMIT only
with a valid LED count (46_control.md R240, R241; 45_protocol.md R227). -/
def WaitOk (s : State) : Prop :=
  match s.cmdWait with
  | none => True
  | some .startClock => s.pos = .idle ∧ configValid s = true
  | some .emitHeader => s.pos = .idle ∧ ledCountValid s = true
  | some .emitPayload => s.pos = .idle ∧ ledCountValid s = true

/-- What every step keeps. The heart of it is `running`: the sequencer never runs a configuration that START
would refuse (46_control.md R241; D10 of 92_eei_decisions.md). -/
structure Inv (s : State) : Prop where
  params : s.params.valid
  canonical : Memory.wf s.mem
  mapped : MemMapped s
  reserved : ReservedZero s
  running : s.pos ≠ .idle → configValid s = true
  ledBound : s.pos = .led → s.iter.led < ledN s
  stopped : s.pos = .idle → s.stopPend = false
  waiting : WaitOk s

end Sys2Proof.Machine
end

