-- ==== Sys2Proof/Certificates/Slice0/Obligations.lean ====
section
/-! DEFINITION. The statements for the provers. -/
namespace Sys2Proof.Statements
open Sys2Proof.Machine

/-- The state with STATUS bit n set, 8 ≤ n ≤ 17: all that an error event of code n does (R300, R301). -/
def withStatusBit (n : Nat) (s : State) : State :=
  { s with sticky := s.sticky ||| BitVec.twoPow 10 (n - 8) }

/-- The state with a new RES_RGB and nothing else changed. -/
def withResRgb (c : Rgb8) (s : State) : State := { s with res := { s.res with resRgb := c } }

/-- The state with new RES_H, RES_S and RES_V and nothing else changed. -/
def withResHsv (x : Hsv) (s : State) : State :=
  { s with res := { s.res with resH := x.h, resS := x.s, resV := x.v } }

/-- The state after a call c whose answer was taken, leaving the answers `rest`. -/
def afterCall (c : Call) (rest : Answers) (s : State) : State :=
  { s with answers := rest, calls := s.calls ++ [c] }

/-- The number a finite binary32 pattern stands for (R15, R64). -/
def f32Value (a : F32) : ℚ := (f32Int a : ℚ) / 2 ^ 149

/-- c is x rounded to binary32: the nearest number, the one of even significand of two equally near, and an
infinity of x's sign from (2^25 - 1) · 2^103 on (R15). -/
def RoundsTo (x : ℚ) (c : F32) : Prop :=
  if |x| < (2 ^ 25 - 1) * 2 ^ 103 then
    isFinite c = true ∧ ∀ m : F32, isFinite m = true →
      |f32Value c - x| ≤ |f32Value m - x| ∧
      (|f32Value c - x| = |f32Value m - x| → f32Value m ≠ f32Value c → f32Mag c % 2 = 0)
  else isInf c = true ∧ (f32Neg c = true ↔ x < 0)

/-- Not NaN and at least 1.0. -/
def AtLeastOne (f : F32) : Prop := isNaN f = false ∧ flt f f32One = false

/-- A byte lies between two others. -/
def Between (out a b : Byte) : Prop :=
  min a.toNat b.toNat ≤ out.toNat ∧ out.toNat ≤ max a.toNat b.toNat

/-- The bits a writable register implements (R22, R27 to R39, R52). -/
def implementedBits : Reg → Word
  | .ctrl => 0x00000001#32
  | .ledCount => 0x0001FFFF#32
  | .xformCount => 0x0000007F#32
  | .opaRgb | .opbRgb => 0x00FFFFFF#32
  | _ => 0xFFFFFFFF#32

/-- START's conditions on entry k, as 46_control.md R241 lists them. -/
def EntryRule (s : State) (k : Nat) : Prop :=
  (xfFirst s k ≤ xfLast s k ∧ xfLast s k < ledN s) ∧
  ((xfWord s k 0).getLsbD 0 = true → ∀ w ∈ [2, 6, 10],
    flt f32Zero (xfWord s k w) = true ∧ isNaN (xfWord s k (w + 2)) = false ∧
    flt (xfWord s k (w + 2)) f32Zero = false ∧ flt f32One (xfWord s k (w + 2)) = false) ∧
  ((xfWord s k 0).getLsbD 1 = true → ∀ w ∈ [14, 15],
    isNaN (xfWord s k w) = false ∧ flt (xfWord s k w) f32Zero = false)

/-- The address of register r as a host access gives it. -/
def regAddr (r : Reg) : BitVec 20 := BitVec.ofNat 20 (regOffset r)

/-- Whether the call the sequencer makes at its place has an answer; true where it makes none. -/
def Answered (s : State) : Prop :=
  match s.pos with
  | .idle => False
  | .boundary | .capFail | .finish => True
  | .tick | .captured | .pace => s.answers.times ≠ []
  | .capCheck => s.gov.capValid = true → s.answers.times ≠ []
  | .capture => s.answers.captures ≠ []
  | .backoffSleep => s.answers.sleeps ≠ 0
  | .paceSleep _ => s.answers.sleeps ≠ 0
  | .reinit => s.answers.reinits ≠ 0
  | .frame => s.answers.frames ≠ []
  | .geometry => s.answers.geometries ≠ []
  | .led => s.answers.averages ≠ []
  | .emitHeader | .emitPayload => s.answers.writes ≠ []

/-- The registers of 10_state.md R54: offset and reset value. -/
def resetTable : List (Nat × Word) :=
  [(0x000, 0x53470001), (0x004, 0), (0x008, 0), (0x00C, 0), (0x010, 0), (0x014, 0), (0x018, 0)] ++
  [(0x020, 0), (0x024, 0), (0x028, 0), (0x02C, 0), (0x030, 0), (0x034, 0), (0x038, 0x3B9ACA00)] ++
  [(0x03C, 0), (0x040, 0), (0x044, 0), (0x050, 0), (0x054, 0), (0x058, 0), (0x05C, 0), (0x060, 0)] ++
  [(0x064, 0), (0x068, 0), (0x06C, 0), (0x080, 0), (0x084, 0), (0x088, 0), (0x08C, 0), (0x090, 0)] ++
  [(0x094, 0), (0x098, 0), (0x09C, 0), (0x0A0, 0), (0x0A4, 0), (0x0A8, 0), (0x0AC, 0), (0x0B0, 0)] ++
  [(0x0B4, 0), (0x0B8, 0)]

/-- The RW-any registers (R37 to R39). -/
def rwAnyRegs : List Reg := [.opaRgb, .opbRgb, .opaH, .opaS, .opaV, .opaF, .opaDtLo, .opaDtHi]

/-- The RW-idle registers (R51). -/
def rwIdleRegs : List Reg :=
  [.ctrl, .ledCount, .xformCount, .iterLimit, .tcLo, .tcHi, .refreshLo, .refreshHi, .capivLo, .capivHi,
   .backoffLo, .backoffHi, .targetW, .targetH]

/-- A colour as a register shows it: r in bits [7:0], g in [15:8], b in [23:16] (R37). -/
def rgbWord (c : Rgb8) : Word := BitVec.ofNat 32 (c.r.toNat + 2 ^ 8 * c.g.toNat + 2 ^ 16 * c.b.toNat)

/-- What each register of R54 reads, by offset (R21 to R40). -/
def contentsOf (s : State) : List (Nat × Word) :=
  [(0x000, 0x53470001), (0x004, if s.cfg.policy = true then 1 else 0), (0x008, statusWord s), (0x00C, 0)] ++
  [(0x010, s.cfg.ledCount.setWidth 32), (0x014, s.cfg.xformCount.setWidth 32), (0x018, s.cfg.iterLimit)] ++
  [(0x020, s.cfg.tcLo), (0x024, s.cfg.tcHi), (0x028, s.cfg.refreshLo), (0x02C, s.cfg.refreshHi)] ++
  [(0x030, s.cfg.capivLo), (0x034, s.cfg.capivHi), (0x038, s.cfg.backoffLo), (0x03C, s.cfg.backoffHi)] ++
  [(0x040, s.cfg.targetW), (0x044, s.cfg.targetH), (0x050, s.cnt.iterCount), (0x054, s.cnt.framesSent)] ++
  [(0x058, s.cnt.framesDropped), (0x05C, s.cnt.captureFails), (0x060, s.cnt.noFrameCount)] ++
  [(0x064, s.cnt.lastDtLo), (0x068, s.cnt.lastDtHi), (0x06C, s.cnt.lastFactor)] ++
  [(0x080, rgbWord s.opnd.opaRgb), (0x084, rgbWord s.opnd.opbRgb), (0x088, s.opnd.opaH)] ++
  [(0x08C, s.opnd.opaS), (0x090, s.opnd.opaV), (0x094, s.opnd.opaF), (0x098, s.opnd.opaDtLo)] ++
  [(0x09C, s.opnd.opaDtHi), (0x0A0, rgbWord s.res.resRgb), (0x0A4, s.res.resH), (0x0A8, s.res.resS)] ++
  [(0x0AC, s.res.resV), (0x0B0, s.res.resF), (0x0B4, s.res.resHdr0), (0x0B8, s.res.resHdr1.setWidth 32)]

/-- The block is in the header write of a frame: EMIT's or the sequencer's (R222). -/
def InHeaderWrite (s : State) : Prop :=
  s.cmdWait = some .emitHeader ∨ (s.cmdWait = none ∧ s.pos = .emitHeader)

/-- The block is in the payload write of a frame: EMIT's or the sequencer's (R222). -/
def InPayloadWrite (s : State) : Prop :=
  s.cmdWait = some .emitPayload ∨ (s.cmdWait = none ∧ s.pos = .emitPayload)

/-- The first listed request issues an EMIT that is accepted and makes its header write (R94, R227). -/
def IssuesEmit (s : State) : Prop :=
  s.cmdWait = none ∧ s.pos = .idle ∧ 1 ≤ ledN s ∧ ledN s ≤ s.params.nMax ∧
  ∃ (n : Nat) (w : Word) (idx : Nat) (rest : List Request),
    (replenish s).pending = { after := n, act := .write 0x0000C#20 4 w } :: rest ∧ decode w = .ok (.emit idx)

/-- A number of steps, one after the other. -/
def stepsFrom : Nat → State → Host.Outcome State Fault Refusal
  | 0, s => .next s
  | n + 1, s =>
    match step s with
    | .next t => stepsFrom n t
    | .fault f => .fault f
    | .refused r => .refused r

end Sys2Proof.Statements

open Sys2Proof Sys2Proof.Machine Sys2Proof.Statements

/-! ## Encoding and the step -/

/-- R90 to R92: no bit of a command is lost by encoding it. -/
def Obligations.DecodeOfEncodeIsIdentity : Prop :=
  ∀ i : Instr, i.WellFormed → decode (encode i) = .ok i

/-- R90 to R92: a word that decodes is the encoding of what it decodes to. -/
def Obligations.EncodeOfDecodeIsIdentity : Prop :=
  ∀ (w : Word) (i : Instr), decode w = .ok i → i.WellFormed ∧ encode i = w

/-- R98: the worked encodings, legal and illegal. -/
def Obligations.WorkedEncodingsDecode : Prop :=
  decode 0x00000000#32 = .ok (.nop 0) ∧ decode 0x00000001#32 = .ok (.rgb2hsv 0) ∧
  decode 0x00000002#32 = .ok (.hsv2rgb 0) ∧ decode 0x00000303#32 = .ok (.chan 3) ∧
  decode 0x00000004#32 = .ok (.gain 0) ∧ decode 0x00012B05#32 = .ok (.pipe 299) ∧
  decode 0x00000006#32 = .ok (.smooth 0) ∧ decode 0x00000007#32 = .ok (.factor 0) ∧
  decode 0x00000008#32 = .ok (.hdr 0) ∧ decode 0x00000009#32 = .ok (.emit 0) ∧
  decode 0x00000010#32 = .ok (.start 0) ∧ decode 0x00000011#32 = .ok (.stop 0) ∧
  decode 0x0100000A#32 = .error .reservedBits ∧ decode 0x0000000A#32 = .error .illegalOpcode ∧
  decode 0x01000001#32 = .error .reservedBits

/-- R93, R306: exactly the words with RSV ≠ 0 or an OP outside the table are illegal, and writing one to CMD
sets STATUS bit 13 and changes nothing else, in every sequencer state. -/
def Obligations.IllegalWordsRaiseOnlyTheirEvent : Prop :=
  ∀ (w : Word) (s : State),
    if w.extractLsb' 24 8 ≠ 0 ∨
        (w.extractLsb' 0 8).toNat ∉ [0, 1, 2, 3, 4, 5, 6, 7, 8, 9, 0x10, 0x11] then
      hostWrite 0x0000C#20 4 w s = .next (withStatusBit 13 s)
    else ∃ i : Instr, decode w = .ok i ∧ hostWrite 0x0000C#20 4 w s = exec i s

/-- The host's next access, a write of a command's word to CMD with nothing before it, is exec of that
command in one step, with the access taken from the queue (R240). The queue of the host's accesses is the
model's (log 5, log 13). -/
def Obligations.StepRunsDecodedCommand : Prop :=
  ∀ (s : State) (i : Instr) (w : Word) (rest : List Request),
    decode w = .ok i → s.cmdWait = none →
    s.pending = { after := 0, act := .write 0x0000C#20 4 w } :: rest →
    step s = exec i { s with pending := rest }

/-- R70, R348: a step is one own step of the block or the first of the outside world's listed requests, in the
order the request's count says while the block has a step enabled (log 5). Where none is listed, the later ones
are: none, the same round again, or free ones (log 26). A waiting CMD write holds back every host access, but no
reset and no answer (log 24). A listed read or write is `hostRead` or `hostWrite` at that state, of any address
and width. A host that reads for ever starves the sequencer: no number of steps changes anything but the value
read and the error bits, whatever step the sequencer has enabled. -/
def Obligations.StepInterleavesHostAndBlock : Prop :=
  ∀ s : State,
    let u : State := match s.pending, s.later with
      | [], .polls round => { s with pending := round }
      | [], .free n => { s with pending := Config.freeRequests n, later := .free (n + 1) }
      | _, _ => s
    replenish s = u ∧
    (u.pending = [] → step s = ownStep u) ∧
    (∀ (r : Request) (rest : List Request), u.pending = r :: rest →
      (s.cmdWait ≠ none → isAccess r.act = true → step s = ownStep u) ∧
      (s.cmdWait = none ∨ isAccess r.act = false →
        (r.after = 0 ∨ ownEnabled u = false → step s = perform r.act { u with pending := rest }) ∧
        (∀ n, r.after = n + 1 → ownEnabled u = true →
          step s = ownStep { u with pending := { after := n, act := r.act } :: rest }))) ∧
    (∀ (a : BitVec 20) (width : Nat) (v : Word),
      perform (.read a width) s = .next (hostRead a width s) ∧
      perform (.write a width v) s = hostWrite a width v s) ∧
    ∀ (a : BitVec 20) (width : Nat), s.cmdWait = none → s.pending = [] →
      s.later = .polls [{ after := 0, act := .read a width }] →
      ∀ n, ∃ t, stepsFrom n s = .next t ∧ t = { s with readData := t.readData, sticky := t.sticky }

/-! ## Acceptance -/

/-- R94, R307, R309: in this order, a command other than NOP or STOP while the sequencer runs sets STATUS bit
14, and CHAN or GAIN with IDX ≥ K_MAX in IDLE sets STATUS bit 17; neither changes anything else. PIPE takes
any index in IDLE: it completes without an event. -/
def Obligations.AcceptanceRefusals : Prop :=
  (∀ (i : Instr) (s : State), s.pos ≠ .idle →
    (∀ n, i ≠ .nop n) → (∀ n, i ≠ .stop n) → exec i s = .next (withStatusBit 14 s)) ∧
  (∀ (k : Nat) (s : State), s.pos = .idle → s.params.kMax ≤ k →
    exec (.chan k) s = .next (withStatusBit 17 s) ∧ exec (.gain k) s = .next (withStatusBit 17 s)) ∧
  (∀ (i : Nat) (s : State), s.pos = .idle → ∃ t, exec (.pipe i) s = .next t ∧ t.sticky = s.sticky)

/-- R304, R226, R227, R241: in IDLE, HDR and EMIT with N outside 1..N_MAX and START with an invalid
configuration set STATUS bit 12 and change nothing else: the sequencer stays IDLE, no register and no byte of
the wire changes. -/
def Obligations.RefusedConfigurationsRaiseOnlyTheirEvent : Prop :=
  ∀ (idx : Nat) (s : State), s.pos = .idle →
    (s.cfg.ledCount.toNat = 0 ∨ s.params.nMax < s.cfg.ledCount.toNat →
      exec (.hdr idx) s = .next (withStatusBit 12 s) ∧ exec (.emit idx) s = .next (withStatusBit 12 s) ∧
      exec (.start idx) s = .next (withStatusBit 12 s)) ∧
    (configValid s = false → exec (.start idx) s = .next (withStatusBit 12 s))

/-! ## The commands: result, completion and frame in one equation each -/

/-- R243, R242: NOP leaves everything as it is in every sequencer state, also as any word with OP = 0 and RSV
= 0 written to CMD; STOP has no effect in IDLE and sets STOP_PEND, and nothing else, in every other state. -/
def Obligations.NopAndStopInEveryState : Prop :=
  ∀ (idx : Nat) (s : State),
    exec (.nop idx) s = .next s ∧
    (∀ w : Word, w &&& 0xFF0000FF#32 = 0x00000000#32 → hostWrite 0x0000C#20 4 w s = .next s) ∧
    (s.pos = .idle → exec (.stop idx) s = .next s) ∧
    (s.pos ≠ .idle → exec (.stop idx) s = .next { s with stopPend := true })

/-- R126, R122, R123: RGB2HSV in IDLE writes RES_H, RES_S, RES_V and nothing else: with M, m the largest and
smallest channel, V = M/255, S = 0 for black and (M - m)/M otherwise, and H is 0 for a grey and the sixth of
the sector value otherwise, plus 1 where negative. -/
def Obligations.Rgb2hsvResult : Prop :=
  ∀ (idx : Nat) (s : State), s.pos = .idle →
    let c := s.opnd.opaRgb
    let r : Int := c.r.toNat
    let g : Int := c.g.toNat
    let b : Int := c.b.toNat
    let big := max r (max g b)
    let chroma := big - min r (min g b)
    let sixths :=
      if big = r then fdiv (f32OfInt (g - b)) (f32OfInt chroma)
      else if big = g then fadd (fdiv (f32OfInt (b - r)) (f32OfInt chroma)) f32Two
      else fadd (fdiv (f32OfInt (r - g)) (f32OfInt chroma)) f32Four
    let turn := fdiv sixths f32Six
    exec (.rgb2hsv idx) s = .next (withResHsv
      { h := if chroma = 0 then f32Zero else if flt turn f32Zero then fadd turn f32One else turn
        s := if big = 0 then f32Zero else fdiv (f32OfInt chroma) (f32OfInt big)
        v := fdiv (f32OfInt big) (0x437F0000#32) } s)

/-- R127, R124, R125, R128: HSV2RGB in IDLE, RES_RGB written and nothing else changed. With s = 0.0 (either
zero) the grey of v · 255; with s ≠ 0.0 and a hue in [0, 1), or any hue where HUE_OOR is literal, the row of
the six-sector formula. That HUE_OOR = unspecified makes no difference where s = 0.0 is the model's reading
(log 22), and so is it that a hue of -0.0 counts as in [0, 1) there (log 21). -/
def Obligations.Hsv2rgbResult : Prop :=
  ∀ (idx : Nat) (s : State), s.pos = .idle →
    let v := s.opnd.opaV
    let h6 := fmul s.opnd.opaH f32Six
    let n : Nat := if isFinite h6 = true then (floorInt h6 % 6).toNat else 0
    let frac := fsub h6 (f32OfInt n)
    let byte (x : F32) : Byte := toByte (fmul x 0x437F0000#32)
    let p := byte (fmul v (fsub f32One s.opnd.opaS))
    let q := byte (fmul v (fsub f32One (fmul s.opnd.opaS frac)))
    let t := byte (fmul v (fsub f32One (fmul s.opnd.opaS (fsub f32One frac))))
    let rows : List Rgb8 :=
      [{ r := byte v, g := t, b := p }, { r := q, g := byte v, b := p }, { r := p, g := byte v, b := t },
       { r := p, g := q, b := byte v }, { r := t, g := p, b := byte v }, { r := byte v, g := p, b := q }]
    (s.opnd.opaS &&& 0x7FFFFFFF#32 = 0 →
      exec (.hsv2rgb idx) s = .next (withResRgb { r := byte v, g := byte v, b := byte v } s)) ∧
    (s.opnd.opaS &&& 0x7FFFFFFF#32 ≠ 0 → s.params.hueOor = .literal ∨ hueInRange s.opnd.opaH = true →
      ∃ c, rows[n]? = some c ∧ exec (.hsv2rgb idx) s = .next (withResRgb c s))

/-- R127, R128: where HUE_OOR is unspecified, s ≠ 0.0 and the hue lies outside [0, 1), HSV2RGB in IDLE
completes with three free bytes as its result and no other effect of the instruction; the counter of free
values moves on (log 3, log 22). That v = 0.0 gives free bytes too is the model's reading (log 27). -/
def Obligations.Hsv2rgbDrawnResult : Prop :=
  ∀ (idx : Nat) (s : State), s.pos = .idle → s.opnd.opaS &&& 0x7FFFFFFF#32 ≠ 0 →
    s.params.hueOor = .unspecified → hueInRange s.opnd.opaH = false →
    exec (.hsv2rgb idx) s = .next { withResRgb
      { r := Config.freeByte s.draws, g := Config.freeByte (s.draws + 1), b := Config.freeByte (s.draws + 2) } s
      with draws := s.draws + 3 }

/-- R147, R142, R140: CHAN k in IDLE with k < K_MAX runs the three channels of OPA_RGB through words 2 to 5,
6 to 9 and 10 to 13 of XF[k]: each channel alone, normalized, raised to gamma, scaled by whitelevel and 1 -
blacklevel, lifted by blacklevel, then 0 below the threshold and truncated to a byte otherwise. RES_RGB is
written and nothing else changes. -/
def Obligations.ChanResult : Prop :=
  ∀ (k : Nat) (s : State), s.pos = .idle → k < s.params.kMax →
    let word (w : Nat) := readWord s.mem (0x1000 + 64 * k + 4 * w)
    let lane (c : Byte) (gamma whitelevel blacklevel threshold : Word) : Byte :=
      let cn := fdiv (f32OfInt c.toNat) 0x437F0000#32
      let c2 := fadd (fmul (fmul (powf cn gamma) whitelevel) (fsub f32One blacklevel)) blacklevel
      if flt c2 threshold = true then 0 else toByte (fmul c2 0x437F0000#32)
    exec (.chan k) s = .next (withResRgb
      { r := lane s.opnd.opaRgb.r (word 2) (word 3) (word 4) (word 5)
        g := lane s.opnd.opaRgb.g (word 6) (word 7) (word 8) (word 9)
        b := lane s.opnd.opaRgb.b (word 10) (word 11) (word 12) (word 13) } s)

/-- R148, R144: GAIN k in IDLE with k < K_MAX multiplies OPA_S and OPA_V by words 14 and 15 of XF[k], clamps
each product to 1.0 (NaN too), passes OPA_H's pattern, writes RES_H, RES_S, RES_V and changes nothing else.
That a gain of +0.0 gives -0.0 for a negative finite operand is the model's reading (log 25). -/
def Obligations.GainResult : Prop :=
  ∀ (k : Nat) (s : State), s.pos = .idle → k < s.params.kMax →
    let word (w : Nat) := readWord s.mem (0x1000 + 64 * k + 4 * w)
    let clamp (x : F32) := if isNaN x = true ∨ flt x f32One = false then f32One else x
    exec (.gain k) s = .next (withResHsv
      { h := s.opnd.opaH, s := clamp (fmul s.opnd.opaS (word 14)), v := clamp (fmul s.opnd.opaV (word 15)) } s)

/-- R165, R161, R163: PIPE i in IDLE, for any i, folds the covering entries among the first min(K, K_MAX), in
table order, over OPA_RGB, writes RES_RGB and changes nothing else. -/
def Obligations.PipeResult : Prop :=
  ∀ (i : Nat) (s : State), s.pos = .idle →
    let range (k : Nat) := readWord s.mem (0x1000 + 64 * k + 4)
    let covering := (List.range (min s.cfg.xformCount.toNat s.params.kMax)).filter
      (fun k => decide (((range k).extractLsb' 0 16).toNat ≤ i ∧ i ≤ ((range k).extractLsb' 16 16).toNat))
    exec (.pipe i) s = .next (withResRgb (asRgb (covering.foldl (foldStep s) (.rgb s.opnd.opaRgb))) s)

/-- R186, R185, R182, R183: SMOOTH in IDLE: the target under policy none; under policy linear each channel
moves from OPB_RGB toward OPA_RGB by the truncated product of their difference and the factor, read as 0 where
it is NaN or negative and as 1 above 1. RES_RGB is written and nothing else changes. -/
def Obligations.SmoothResult : Prop :=
  ∀ (idx : Nat) (s : State), s.pos = .idle →
    let f := s.opnd.opaF
    let fc := if isNaN f = true ∨ flt f f32Zero = true then f32Zero
      else if flt f32One f = true then f32One else f
    let moved (p t : Byte) : Byte :=
      BitVec.ofInt 8 ((p.toNat : Int) + truncInt (fmul (f32OfInt ((t.toNat : Int) - p.toNat)) fc))
    exec (.smooth idx) s = .next (withResRgb
      (if s.cfg.policy = true then
        { r := moved s.opnd.opbRgb.r s.opnd.opaRgb.r, g := moved s.opnd.opbRgb.g s.opnd.opaRgb.g
          b := moved s.opnd.opbRgb.b s.opnd.opaRgb.b }
       else s.opnd.opaRgb) s)

/-- R187, R180, R181: FACTOR in IDLE divides OPA_DT by TC, a TC of 0 read as 1, each converted to binary32
first; RES_F is written and nothing else changes. -/
def Obligations.FactorResult : Prop :=
  ∀ (idx : Nat) (s : State), s.pos = .idle →
    let dt : Nat := s.opnd.opaDtHi.toNat * 2 ^ 32 + s.opnd.opaDtLo.toNat
    let tc : Nat := s.cfg.tcHi.toNat * 2 ^ 32 + s.cfg.tcLo.toNat
    exec (.factor idx) s = .next { s with res := { s.res with
      resF := fdiv (f32OfInt (dt : Int)) (f32OfInt (if tc = 0 then 1 else (tc : Int))) } }

/-- R226, R220: HDR in IDLE with 1 ≤ N ≤ N_MAX: RES_HDR0 is 0x616441 with (N - 1) >> 8 in its top byte,
RES_HDR1 holds (N - 1) & 0xFF and above it the checksum; nothing else changes. -/
def Obligations.HdrResult : Prop :=
  ∀ (idx : Nat) (s : State), s.pos = .idle → s.params.valid →
    let n := s.cfg.ledCount.toNat
    let hi := (n - 1) / 256
    let lo := (n - 1) % 256
    1 ≤ n → n ≤ s.params.nMax → ∃ t, exec (.hdr idx) s = .next t ∧
      t = { s with res := { s.res with resHdr0 := t.res.resHdr0, resHdr1 := t.res.resHdr1 } } ∧
      t.res.resHdr0.toNat = hi * 2 ^ 24 + 0x616441 ∧
      t.res.resHdr1.toNat = (hi ^^^ lo ^^^ 0x55) * 2 ^ 8 + lo

/-- R227, R222, R220, R221: EMIT in IDLE with 1 ≤ N ≤ N_MAX whose transport answers Ok(6) and Ok(3N) puts the
header and the 3N payload bytes on the wire, counts the frame as sent, and changes nothing else of the block;
the two answers are taken and the two calls noted. The answers' form and the calls' record are the model's
(log 4, log 17). -/
def Obligations.EmitSendsWholeFrame : Prop :=
  ∀ (idx : Nat) (s : State) (ws : List WriteAnswer), s.pos = .idle → s.cmdWait = none →
    1 ≤ ledN s → ledN s ≤ s.params.nMax → s.answers.writes = .ok 6 :: .ok (3 * ledN s) :: ws →
    exec (.emit idx) s = .next { s with
      wire := s.wire ++ header (ledN s) ++ payload s (ledN s)
      cnt := { s.cnt with framesSent := s.cnt.framesSent + 1 }
      answers := { s.answers with writes := ws }
      calls := s.calls ++ [.write (header (ledN s)), .write (payload s (ledN s))] }

/-- R222, R223, R333: EMIT whose header write is short (Ok(k), k < 6) or fails puts that many header bytes on
the wire, raises E_TX_HDR (bit 9), counts a dropped frame and writes no payload. EMIT whose payload write is
short or fails: E_TX_PAY (bit 10), one dropped frame, the header and a part of the payload on the wire; a
failed write that left the whole payload there still counts as dropped. The answers' form and the calls'
record are the model's (log 4, log 17). -/
def Obligations.EmitDropsShortOrFailedFrames : Prop :=
  ∀ (idx : Nat) (s : State) (a : WriteAnswer) (j : Nat) (ws : List WriteAnswer), s.pos = .idle →
    s.cmdWait = none → 1 ≤ ledN s → ledN s ≤ s.params.nMax →
    (s.answers.writes = a :: ws → (a = .ok j ∧ j < 6) ∨ (a = .err j ∧ j ≤ 6) →
      exec (.emit idx) s = .next { withStatusBit 9 s with
        wire := s.wire ++ (header (ledN s)).take j
        cnt := { s.cnt with framesDropped := s.cnt.framesDropped + 1 }
        answers := { s.answers with writes := ws }
        calls := s.calls ++ [.write (header (ledN s))] }) ∧
    (s.answers.writes = .ok 6 :: a :: ws →
      (a = .ok j ∧ j < 3 * ledN s) ∨ (a = .err j ∧ j ≤ 3 * ledN s) →
      exec (.emit idx) s = .next { withStatusBit 10 s with
        wire := s.wire ++ header (ledN s) ++ (payload s (ledN s)).take j
        cnt := { s.cnt with framesDropped := s.cnt.framesDropped + 1 }
        answers := { s.answers with writes := ws }
        calls := s.calls ++ [.write (header (ledN s)), .write (payload s (ledN s))] })

/-- R221, R67: the payload of n LEDs has 3n bytes, and bytes 3i, 3i + 1 and 3i + 2 are the memory bytes at
0x40000 + 4i, + 1 and + 2: r, g and b of OUTBUF[i]. -/
def Obligations.PayloadIsTheOutputBuffer : Prop :=
  ∀ (s : State) (n : Nat), (payload s n).length = 3 * n ∧
    ∀ i j, i < n → j < 3 → (payload s n)[3 * i + j]? = some (readByte s.mem (0x40000 + 4 * i + j))

/-- R241: START accepts exactly the configurations its rule lists. -/
def Obligations.StartCheckIsTheRule : Prop :=
  ∀ s : State, configValid s = true ↔
    (1 ≤ ledN s ∧ ledN s ≤ s.params.nMax ∧ xformK s ≤ s.params.kMax ∧ ∀ k, k < xformK s → EntryRule s k)

/-- R241: START in IDLE with a valid configuration and an answered now() clears the output buffer, the
counters, LAST_DT, LAST_FACTOR, CAP_VALID, CSW_START and STOP_PEND, starts the refresh stopwatch at the
reading and makes the sequencer ACTIVE at S0; every byte outside the output buffer, every other register and
the wire stay. The answers' form and the calls' record are the model's (log 4, log 17). -/
def Obligations.StartBeginsRun : Prop :=
  ∀ (idx : Nat) (s : State) (t : Nanos) (ts : List Nanos), s.pos = .idle → s.cmdWait = none →
    configValid s = true → s.answers.times = t :: ts →
    ∃ u, exec (.start idx) s = .next u ∧
      u = { s with
        mem := u.mem, cnt := Counters.zero, stopPend := false, pos := .boundary
        gov := { rswStart := t, cswStart := 0, capValid := false }
        answers := { s.answers with times := ts }, calls := s.calls ++ [.now] } ∧
      (∀ a, 0x40000 ≤ a → a < 0x40000 + 4 * s.params.nMax → readByte u.mem a = 0) ∧
      (∀ a, a < 0x40000 ∨ 0x40000 + 4 * s.params.nMax ≤ a → readByte u.mem a = readByte s.mem a)

/-- R240, R241, R257, U10: a CMD write whose external call has no answer leaves the block waiting in that call:
START with everything that R241 clears cleared, the sequencer still IDLE and nothing else changed; EMIT with
nothing sent and nothing changed; EMIT whose header write was exact with the header on the wire. From then on,
while no answer is there, the block's own step changes nothing. What is done before the call returns is the
model's reading (log 7), the step that changes nothing is too (log 15), and the answers' form and the calls'
record are the model's (log 4, log 17). -/
def Obligations.UnansweredCommandWaits : Prop :=
  ∀ (idx : Nat) (s : State), s.pos = .idle →
    (configValid s = true → s.answers.times = [] → ∃ u, exec (.start idx) s = .next u ∧
      u = { s with
        mem := u.mem, stopPend := false, cmdWait := some .startClock
        gov := { s.gov with cswStart := 0, capValid := false }
        cnt := { iterCount := 0, framesSent := 0, framesDropped := 0, captureFails := 0, noFrameCount := 0,
                 lastDtLo := 0, lastDtHi := 0, lastFactor := 0 } } ∧
      (∀ a, 0x40000 ≤ a → a < 0x40000 + 4 * s.params.nMax → readByte u.mem a = 0) ∧
      (∀ a, a < 0x40000 ∨ 0x40000 + 4 * s.params.nMax ≤ a → readByte u.mem a = readByte s.mem a) ∧
      ownStep u = .next u) ∧
    (1 ≤ ledN s → ledN s ≤ s.params.nMax →
      (s.answers.writes = [] →
        exec (.emit idx) s = .next { s with cmdWait := some .emitHeader } ∧
        ownStep { s with cmdWait := some .emitHeader } = .next { s with cmdWait := some .emitHeader }) ∧
      (s.answers.writes = [.ok 6] →
        let w := { afterCall (.write (header (ledN s))) { s.answers with writes := [] } s with
          wire := s.wire ++ header (ledN s), cmdWait := some .emitPayload }
        exec (.emit idx) s = .next w ∧ ownStep w = .next w))

/-! ## Binary32 and the units -/

/-- R15: every arithmetic operation on finite operands, and every conversion of an integer, is the exact
result rounded once, to nearest, ties to even; 0 × ∞ is NaN, x / 0 is an infinity for finite non-zero x, 0 /
0 and ∞ - ∞ are NaN, and less-than is the order of the values, false when either operand is NaN. Overflow to
an infinity is IEEE 754's (log 19). -/
def Obligations.ArithmeticIsCorrectlyRounded : Prop :=
  (∀ a b : F32, isFinite a = true → isFinite b = true →
    RoundsTo (f32Value a + f32Value b) (fadd a b) ∧
    RoundsTo (f32Value a - f32Value b) (fsub a b) ∧
    RoundsTo (f32Value a * f32Value b) (fmul a b) ∧
    (f32Value b ≠ 0 → RoundsTo (f32Value a / f32Value b) (fdiv a b)) ∧
    (flt a b = true ↔ f32Value a < f32Value b)) ∧
  (∀ n : Int, RoundsTo n (f32OfInt n)) ∧
  ∀ a b : F32,
    (isZero a = true → isInf b = true → isNaN (fmul a b) = true ∧ isNaN (fmul b a) = true) ∧
    (isFinite a = true → isZero a = false → isZero b = true →
      isInf (fdiv a b) = true ∧ f32Neg (fdiv a b) = (f32Neg a != f32Neg b)) ∧
    (isZero a = true → isZero b = true → isNaN (fdiv a b) = true) ∧
    (isInf a = true → isNaN (fsub a a) = true) ∧
    (isNaN a = true ∨ isNaN b = true → flt a b = false)

/-- R120: ToByte: NaN gives 0, 255.0 and above 255, 0.0 and below 0, and every other number its integer part. -/
def Obligations.ToByteTruncatesAndSaturates : Prop :=
  ∀ x : F32,
    (isNaN x = true → toByte x = 0) ∧
    (isNaN x = false → flt x 0x437F0000#32 = false → toByte x = 255) ∧
    (isNaN x = false → flt f32Zero x = false → toByte x = 0) ∧
    (flt f32Zero x = true → flt x 0x437F0000#32 = true →
      ((toByte x).toNat : ℚ) ≤ f32Value x ∧ f32Value x < (toByte x).toNat + 1)

/-- R130, R123: to_hsv of every RGB8 has its hue in [0, 1) and its saturation and value in [0, 1], none NaN.
In the range as in log 21. -/
def Obligations.ToHsvStaysInRange : Prop :=
  ∀ c : Rgb8, hueInRange (toHsv c).h = true ∧ inUnit (toHsv c).s = true ∧ inUnit (toHsv c).v = true

/-- R128: for a hue in [0, 1) the sector is the floor of h·6, in 0..5, and frac lies in [0, 1). The hue -0.0
counts as in the range (log 21). -/
def Obligations.SectorOfHueInRange : Prop :=
  ∀ h : F32, hueInRange h = true →
    let h6 := fmul h f32Six
    isFinite h6 = true ∧ floorInt h6 = hueSector h6 ∧ hueSector h6 ≤ 5 ∧
    hueInRange (fsub h6 (f32OfInt (hueSector h6))) = true

/-- R129: for every RGB8, converting to HSV and back gives, in each channel, the channel itself or one less, and
so never more. The round trip of a grey is exact (C1), with hue and saturation +0.0 (R122, R123). -/
def Obligations.RoundTripGivesSameOrOneLess : Prop :=
  (∀ c : Rgb8,
    let back := toRgb (toHsv c)
    (back.r.toNat = c.r.toNat ∨ back.r.toNat + 1 = c.r.toNat) ∧
    (back.g.toNat = c.g.toNat ∨ back.g.toNat + 1 = c.g.toNat) ∧
    (back.b.toNat = c.b.toNat ∨ back.b.toNat + 1 = c.b.toNat)) ∧
  ∀ c : Byte,
    let grey : Rgb8 := { r := c, g := c, b := c }
    (toHsv grey).h = 0 ∧ (toHsv grey).s = 0 ∧ toRgb (toHsv grey) = grey

/-- R141: the four properties of POWF, whatever the implementation's function is. The function they are given
to is the model's (log 2). -/
def Obligations.PowfHasItsFourProperties : Prop :=
  ∀ x y : F32,
    (inUnit x = true → powf x f32One = x) ∧
    (flt f32Zero y = true → powf f32Zero y = f32Zero) ∧
    powf f32One y = f32One ∧
    (inUnit x = true → flt f32Zero y = true → inUnit (powf x y) = true)

/-- R143: (a) the identity settings leave every channel as it is; (b) identity with threshold 1.0 gives 0 for
0..254 and 255 for 255 (C2). -/
def Obligations.ChannelIdentityAndThreshold : Prop :=
  ∀ c : Byte,
    chan1 c { gamma := f32One, whitelevel := f32One, blacklevel := f32Zero, threshold := f32Zero } = c ∧
    chan1 c { gamma := f32One, whitelevel := f32One, blacklevel := f32Zero, threshold := f32One } =
      (if c = 255 then 255 else 0)

/-- R145: for saturation and value in [0, 1] and gains ≥ 0 the results lie in [0, 1]; for every input
whatever they are at most 1.0 and not NaN. That -0.0 counts as in [0, 1], in the operands and the results, is the
model's reading (log 21). -/
def Obligations.GainNeverExceedsOne : Prop :=
  ∀ (x : Hsv) (g : GainTransformer),
    (isNaN (gainHsv x g).s = false ∧ flt f32One (gainHsv x g).s = false) ∧
    (isNaN (gainHsv x g).v = false ∧ flt f32One (gainHsv x g).v = false) ∧
    (inUnit x.s = true → inUnit x.v = true →
      isNaN g.saturationGain = false → flt g.saturationGain f32Zero = false →
      isNaN g.valueGain = false → flt g.valueGain f32Zero = false →
      inUnit (gainHsv x g).s = true ∧ inUnit (gainHsv x g).v = true)

/-- R162, R160: one fold step by the entry's variant, with no conversion of a colour already held in the
representation a transformer reads. -/
def Obligations.FoldStepByVariant : Prop :=
  ∀ (s : State) (acc : Color) (k : Nat),
    let hasChan := (xfWord s k 0).getLsbD 0
    let hasGain := (xfWord s k 0).getLsbD 1
    let rgbOf : Color → Rgb8 := fun c => match c with
      | .rgb x => x
      | .hsv x => toRgb x
    let hsvOf : Color → Hsv := fun c => match c with
      | .rgb x => toHsv x
      | .hsv x => x
    (hasChan = true → hasGain = true →
      foldStep s acc k = .hsv (gainHsv (toHsv (chanRgb (rgbOf acc) (xfChannel s k))) (xfGain s k))) ∧
    (hasChan = true → hasGain = false → foldStep s acc k = .rgb (chanRgb (rgbOf acc) (xfChannel s k))) ∧
    (hasChan = false → hasGain = true → foldStep s acc k = .hsv (gainHsv (hsvOf acc) (xfGain s k))) ∧
    (hasChan = false → hasGain = false → foldStep s acc k = acc)

/-- R164 (a), (d): an LED whose covering entries all lack both transformers, or that has none, gets its
averaged colour exactly; a Both entry acts as a ChannelOnly entry followed by a GainOnly entry with the same
settings. -/
def Obligations.PipelineProperties : Prop :=
  (∀ (s : State) (i : Nat) (avg : Rgb8),
    (∀ k ∈ pairList s i, (xfWord s k 0).getLsbD 0 = false ∧ (xfWord s k 0).getLsbD 1 = false) →
    pipeline s i avg = avg) ∧
  ∀ (s : State) (acc : Color) (k kc kg : Nat),
    xfHasChan s k = true → xfHasGain s k = true → xfHasChan s kc = true → xfHasGain s kc = false →
    xfHasChan s kg = false → xfHasGain s kg = true →
    xfChannel s kc = xfChannel s k → xfGain s kg = xfGain s k →
    foldStep s acc k = foldStep s (foldStep s acc kc) kg

/-- R184: linear smoothing gives the target for a factor of at least 1 and the previous value for a factor of
0, always stays between the two, and rounds toward the previous value, so that a difference of one is closed
only by a factor of at least 1; policy "none" gives the target for every factor. -/
def Obligations.LinearSmoothingProperties : Prop :=
  (∀ (prev tgt : Rgb8) (f : F32), smoothRgb false prev tgt f = tgt) ∧
  ∀ (prev tgt : Byte) (f : F32),
    (AtLeastOne f → smoothChannel prev tgt f = tgt) ∧
    (isZero f = true → smoothChannel prev tgt f = prev) ∧
    Between (smoothChannel prev tgt f) prev tgt ∧
    (prev.toNat + 1 = tgt.toNat ∨ tgt.toNat + 1 = prev.toNat →
      (smoothChannel prev tgt f = tgt ↔ AtLeastOne f) ∧
      (smoothChannel prev tgt f = prev ↔ ¬ AtLeastOne f))

/-- R181: the smoothing factor of every time delta and every TC is finite and not negative, and it is +0.0
for a delta of 0. -/
def Obligations.FactorIsFiniteAndNonnegative : Prop :=
  ∀ dt tc : Nanos, isFinite (smoothingFactor dt tc) = true ∧ f32Neg (smoothingFactor dt tc) = false ∧
    smoothingFactor 0 tc = 0

/-- R220, R225: the header of N LEDs is 'A', 'd', 'a', (N - 1) >> 8, (N - 1) & 0xFF and their checksum; every
header has bytes 3, 4 and 5 whose XOR is 0x55; and distinct LED counts up to 65536 have distinct headers. -/
def Obligations.HeaderChecksumAndCountAreRecoverable : Prop :=
  (∀ n, 1 ≤ n → n ≤ 65536 → ∃ hi lo chk : Byte, header n = [0x41#8, 0x64#8, 0x61#8, hi, lo, chk] ∧
    hi.toNat = (n - 1) / 256 ∧ lo.toNat = (n - 1) % 256 ∧ chk.toNat = hi.toNat ^^^ lo.toNat ^^^ 0x55) ∧
  (∀ n, ∃ hi lo chk : Byte, header n = [0x41#8, 0x64#8, 0x61#8, hi, lo, chk] ∧ hi ^^^ lo ^^^ chk = 0x55#8) ∧
  ∀ n m, 1 ≤ n → n ≤ 65536 → 1 ≤ m → m ≤ 65536 → header n = header m → n = m

/-! ## The sequencer: one statement per step, about the block's own step, whatever the host has pending -/

/-- R250, R257: outside a waiting CMD write the sequencer has a step enabled exactly where the call it makes
has an answer; where it has none, its step changes nothing (log 15). The calls taken one by one, their answers
and their record are the model's (log 4, log 6, log 17). -/
def Obligations.SequencerWaitsForAnswers : Prop :=
  ∀ s : State, s.cmdWait = none →
    (ownEnabled s = true ↔ Answered s) ∧ (ownEnabled s = false → ownStep s = .next s)

/-- R251: the iteration boundary. -/
def Obligations.BoundaryStep : Prop :=
  ∀ s : State, s.cmdWait = none → s.pos = .boundary →
    (s.stopPend = true → ownStep s = .next { s with stopPend := false, pos := .idle }) ∧
    (s.stopPend = false → s.cfg.iterLimit ≠ 0 → s.cnt.iterCount = s.cfg.iterLimit →
      ownStep s = .next { s with pos := .idle }) ∧
    (s.stopPend = false → s.cfg.iterLimit = 0 ∨ s.cnt.iterCount ≠ s.cfg.iterLimit →
      ownStep s = .next { s with pos := .tick })

/-- R205, R201: the refresh tick. The delta is the time since the last tick, 0 for a reading before it. The
calls taken one by one, their answers and their record are the model's (log 4, log 6, log 17). -/
def Obligations.TickStep : Prop :=
  ∀ (s : State) (t : Nanos) (ts : List Nanos), s.cmdWait = none → s.pos = .tick →
    s.answers.times = t :: ts →
    ∃ u, ownStep s = .next u ∧
      (u.cnt.lastDtHi.toNat * 2 ^ 32 + u.cnt.lastDtLo.toNat = t.toNat - s.gov.rswStart.toNat) ∧
      u.iter.dt.toNat = t.toNat - s.gov.rswStart.toNat ∧
      u.iter.factor = smoothingFactor u.iter.dt (tcOf s) ∧
      u.cnt.lastFactor = u.iter.factor ∧
      u = { afterCall .now { s.answers with times := ts } s with
        pos := .capCheck, gov := { s.gov with rswStart := t }
        iter := { s.iter with dt := u.iter.dt, factor := u.iter.factor }
        cnt := { s.cnt with
          lastDtLo := u.cnt.lastDtLo, lastDtHi := u.cnt.lastDtHi, lastFactor := u.cnt.lastFactor } }

/-- R203, R204, R208, R250: the capture steps. S2: without a capture since START an attempt and no time read;
else an attempt exactly when more than CAPTURE_INTERVAL has elapsed, a reading before the start restarting
the stopwatch there. S3: after Ok the limiter restarts at a fresh reading and CAP_VALID is set; after Err
both are unchanged and the iteration goes to S4. The calls taken one by one, their answers and their record
are the model's (log 4, log 6, log 17). -/
def Obligations.CaptureSteps : Prop :=
  ∀ s : State, s.cmdWait = none →
    (s.pos = .capCheck → s.gov.capValid = false → ownStep s = .next { s with pos := .capture }) ∧
    (∀ (t : Nanos) (ts : List Nanos), s.pos = .capCheck → s.gov.capValid = true → s.answers.times = t :: ts →
      ownStep s = .next { afterCall .now { s.answers with times := ts } s with
        gov := { s.gov with cswStart := if s.gov.cswStart ≤ t then s.gov.cswStart else t }
        pos := if (capivOf s).toNat < t.toNat - s.gov.cswStart.toNat then .capture else .frame }) ∧
    (∀ (ok : Bool) (cs : List Bool), s.pos = .capture → s.answers.captures = ok :: cs →
      ownStep s = .next { afterCall .captureFrame { s.answers with captures := cs } s with
        pos := if ok = true then .captured else .capFail }) ∧
    (∀ (t : Nanos) (ts : List Nanos), s.pos = .captured → s.answers.times = t :: ts →
      ownStep s = .next { afterCall .now { s.answers with times := ts } s with
        gov := { s.gov with cswStart := t, capValid := true }, pos := .frame })

/-- R252, R305: CaptureFailed. The event (bit 8) and the count come first; then the sleep of BACKOFF, skipped
where BACKOFF = 0; then captureReinit; then S9, with no analysis, write or pace sleep. The calls taken one by
one, their answers and their record are the model's (log 4, log 6, log 17). -/
def Obligations.CaptureFailedSteps : Prop :=
  ∀ s : State, s.cmdWait = none →
    (s.pos = .capFail → ownStep s = .next { withStatusBit 8 s with
      cnt := { s.cnt with captureFails := s.cnt.captureFails + 1 }
      pos := if backoffOf s = 0 then .reinit else .backoffSleep }) ∧
    (∀ n, s.pos = .backoffSleep → s.answers.sleeps = n + 1 →
      ownStep s = .next { afterCall (.sleep (backoffOf s)) { s.answers with sleeps := n } s with pos := .reinit }) ∧
    (∀ n, s.pos = .reinit → s.answers.reinits = n + 1 →
      ownStep s = .next { afterCall .captureReinit { s.answers with reinits := n } s with pos := .finish })

/-- R250, R253: the stored frame. None raises E_NO_FRAME (bit 11), counts, and goes on at the pace sleep;
Some keeps the token, reads the geometry and starts with LED 0. The calls taken one by one, their answers and
their record are the model's (log 4, log 6, log 17). -/
def Obligations.StoredFrameSteps : Prop :=
  ∀ s : State, s.cmdWait = none →
    (∀ fs, s.pos = .frame → s.answers.frames = none :: fs →
      ownStep s = .next { afterCall .getStoredFrame { s.answers with frames := fs } (withStatusBit 11 s) with
        cnt := { s.cnt with noFrameCount := s.cnt.noFrameCount + 1 }, pos := .pace }) ∧
    (∀ tok fs, s.pos = .frame → s.answers.frames = some tok :: fs →
      ownStep s = .next { afterCall .getStoredFrame { s.answers with frames := fs } s with
        iter := { s.iter with frame := tok }, pos := .geometry }) ∧
    (∀ w h gs, s.pos = .geometry → s.answers.geometries = (w, h) :: gs →
      ownStep s = .next { afterCall .geometry { s.answers with geometries := gs } s with
        iter := { s.iter with srcW := w, srcH := h, led := 0 }
        pos := if ledN s = 0 then .emitHeader else .led })

/-- R254, R69, R250: one LED. The averaging call gets the frame, the LED index, the geometry and TARGET_W and
TARGET_H; OUTBUF[i] becomes the smoothed pipeline colour; every byte outside its four is unchanged, and so is
everything else but the LED index and the place. The calls taken one by one, their answers and their record
are the model's (log 4, log 6, log 17). -/
def Obligations.LedStep : Prop :=
  ∀ (s : State) (avg : Rgb8) (cs : List Rgb8), s.cmdWait = none → s.pos = .led →
    s.answers.averages = avg :: cs →
    let i := s.iter.led
    ∃ u, ownStep s = .next u ∧
      readOut u i = smoothRgb s.cfg.policy (readOut s i) (pipeline s i avg) s.iter.factor ∧
      (∀ a, a < 0x40000 + 4 * i ∨ 0x40000 + 4 * i + 4 ≤ a → readByte u.mem a = readByte s.mem a) ∧
      u = { afterCall (.averageColor s.iter.frame i s.iter.srcW s.iter.srcH s.cfg.targetW s.cfg.targetH)
              { s.answers with averages := cs } s with
        mem := u.mem, iter := { s.iter with led := i + 1 }
        pos := if i + 1 < ledN s then .led else .emitHeader }

/-- R222, R223, R250, R255: S7. The header write and then the payload write; a short or failed write raises
its event (bit 9 or 10), drops the frame and goes on at S8; only two exact writes count as sent. The calls
taken one by one, their answers and their record are the model's (log 4, log 6, log 17). -/
def Obligations.EmissionSteps : Prop :=
  ∀ (s : State) (a : WriteAnswer) (ws : List WriteAnswer), s.cmdWait = none → s.answers.writes = a :: ws →
    (s.pos = .emitHeader →
      let called := afterCall (.write (header (ledN s))) { s.answers with writes := ws } s
      (a = .ok 6 → ownStep s = .next { called with wire := s.wire ++ header (ledN s), pos := .emitPayload }) ∧
      ∀ j, (a = .ok j ∧ j < 6) ∨ (a = .err j ∧ j ≤ 6) →
        ownStep s = .next { withStatusBit 9 called with
          wire := s.wire ++ (header (ledN s)).take j, pos := .pace
          cnt := { s.cnt with framesDropped := s.cnt.framesDropped + 1 } }) ∧
    (s.pos = .emitPayload →
      let called := afterCall (.write (payload s (ledN s))) { s.answers with writes := ws } s
      (a = .ok (3 * ledN s) → ownStep s = .next { called with
        wire := s.wire ++ payload s (ledN s), pos := .pace
        cnt := { s.cnt with framesSent := s.cnt.framesSent + 1 } }) ∧
      ∀ j, (a = .ok j ∧ j < 3 * ledN s) ∨ (a = .err j ∧ j ≤ 3 * ledN s) →
        ownStep s = .next { withStatusBit 10 called with
          wire := s.wire ++ (payload s (ledN s)).take j, pos := .pace
          cnt := { s.cnt with framesDropped := s.cnt.framesDropped + 1 } })

/-- R206, R207, R250: the pace sleep of REFRESH_PERIOD less the time since the tick, none where the budget is
used up; a reading before the tick restarts the stopwatch there and counts as 0 elapsed; S9 counts the
iteration. The calls taken one by one, their answers and their record are the model's (log 4, log 6, log 17). -/
def Obligations.PaceSteps : Prop :=
  ∀ s : State, s.cmdWait = none →
    (∀ (t : Nanos) (ts : List Nanos), s.pos = .pace → s.answers.times = t :: ts →
      let el := t.toNat - s.gov.rswStart.toNat
      ∃ d : Nanos, (el < (refreshOf s).toNat → d.toNat = (refreshOf s).toNat - el) ∧
        ownStep s = .next { afterCall .now { s.answers with times := ts } s with
          gov := { s.gov with rswStart := if s.gov.rswStart ≤ t then s.gov.rswStart else t }
          pos := if el < (refreshOf s).toNat then .paceSleep d else .finish }) ∧
    (∀ (d : Nanos) (n : Nat), s.pos = .paceSleep d → s.answers.sleeps = n + 1 →
      ownStep s = .next { afterCall (.sleep d) { s.answers with sleeps := n } s with pos := .finish }) ∧
    (s.pos = .finish →
      ownStep s = .next { s with cnt := { s.cnt with iterCount := s.cnt.iterCount + 1 }, pos := .boundary })

/-! ## Host accesses -/

/-- R310, R62, R65, R61, R46, R51: an access of a width other than 32 bits, at an address not a multiple of
4, or at an unmapped address sets STATUS bit 16 and changes nothing else; a read returns 0. Unmapped are
exactly the addresses outside the register list, the transform table and the output buffer. A write to a
read-only register or to the output buffer does the same, in every sequencer state. -/
def Obligations.BusErrorsRaiseOnlyTheirEvent : Prop :=
  ∀ (v : Word) (s : State), s.params.valid →
    (∀ (a : BitVec 20) (width : Nat),
      width ≠ 4 ∨ a.toNat % 4 ≠ 0 ∨
        ((∀ p ∈ resetTable, a.toNat ≠ p.1) ∧
         ¬ (0x1000 ≤ a.toNat ∧ a.toNat < 0x1000 + 64 * s.params.kMax) ∧
         ¬ (0x40000 ≤ a.toNat ∧ a.toNat < 0x40000 + 4 * s.params.nMax)) →
      hostRead a width s = withStatusBit 16 { s with readData := 0 } ∧
      hostWrite a width v s = .next (withStatusBit 16 s)) ∧
    (∀ r : Reg, r ∈ [.id, .iterCount, .framesSent, .framesDropped, .captureFails, .noFrameCount, .lastDtLo,
        .lastDtHi, .lastFactor, .resRgb, .resH, .resS, .resV, .resF, .resHdr0, .resHdr1] →
      hostWrite (regAddr r) 4 v s = .next (withStatusBit 16 s)) ∧
    (∀ i, i < s.params.nMax →
      hostWrite (BitVec.ofNat 20 (0x40000 + 4 * i)) 4 v s = .next (withStatusBit 16 s))

/-- R51, R308: while the sequencer runs, a write to an RW-idle register or to a transform-table word sets
STATUS bit 15 and changes nothing else. -/
def Obligations.BusyConfigWritesRaiseOnlyTheirEvent : Prop :=
  ∀ (v : Word) (s : State), s.pos ≠ .idle →
    (∀ r : Reg, r ∈ [.ctrl, .ledCount, .xformCount, .iterLimit, .tcLo, .tcHi, .refreshLo, .refreshHi, .capivLo,
        .capivHi, .backoffLo, .backoffHi, .targetW, .targetH] →
      hostWrite (regAddr r) 4 v s = .next (withStatusBit 15 s)) ∧
    (∀ k w, s.params.valid → k < s.params.kMax → w < 16 →
      hostWrite (BitVec.ofNat 20 (0x1000 + 64 * k + 4 * w)) 4 v s = .next (withStatusBit 15 s))

/-- R51, R52, R37 to R39: a write of a writable register, of an RW-idle one in IDLE and of an RW-any one in every
state, makes it read the implemented bits of the value; every other register, STATUS and CMD included, reads as
before, and the memory, the flags, the sequencer and the wire are unchanged. -/
def Obligations.RegisterReadsWhatWasWritten : Prop :=
  ∀ (r : Reg) (v : Word) (s : State),
    r ∈ rwAnyRegs ∨ (r ∈ rwIdleRegs ∧ s.pos = .idle) →
    ∃ t, hostWrite (regAddr r) 4 v s = .next t ∧
      (hostRead (regAddr r) 4 t).readData = v &&& implementedBits r ∧
      (∀ r', r' ≠ r → (hostRead (regAddr r') 4 t).readData = (hostRead (regAddr r') 4 s).readData) ∧
      t = { s with cfg := t.cfg, opnd := t.opnd }

/-- R41, R42, R44, R45, R51: in IDLE a write of word w of XF[k] makes that word read the value (its two
implemented bits for word 0); no other byte of memory and nothing else of the state changes. -/
def Obligations.TableWordReadsWhatWasWritten : Prop :=
  ∀ (k w : Nat) (v : Word) (s : State), s.pos = .idle → s.params.valid → k < s.params.kMax → w < 16 →
    let a := 0x1000 + 64 * k + 4 * w
    ∃ t, hostWrite (BitVec.ofNat 20 a) 4 v s = .next t ∧
      (hostRead (BitVec.ofNat 20 a) 4 t).readData = (if w = 0 then v &&& 3#32 else v) ∧
      (∀ b, b < a ∨ a + 4 ≤ b → readByte t.mem b = readByte s.mem b) ∧
      t = { s with mem := t.mem }

/-- R23 to R25: STATUS reads STATE in bits [2:0], never 4 to 7, and 0 exactly in IDLE, 2 in PACE_SLEEP, 3 in
BACKOFF; STOP_PEND in bit 3; the sticky bit of the event of code i in bit i; and 0 in every other bit. A
write clears exactly the sticky bits that the value has at 1, in every state, and changes nothing else. -/
def Obligations.StatusReadsAndClears : Prop :=
  ∀ s : State,
    (let word := (hostRead (regAddr .status) 4 s).readData
     (word.extractLsb' 0 3).toNat ≤ 3 ∧ ((word.extractLsb' 0 3).toNat = 0 ↔ s.pos = .idle) ∧
     ((word.extractLsb' 0 3).toNat = 2 ↔ ∃ d, s.pos = .paceSleep d) ∧
     ((word.extractLsb' 0 3).toNat = 3 ↔ s.pos = .backoffSleep) ∧
     word.getLsbD 3 = s.stopPend ∧ word.extractLsb' 4 4 = 0 ∧ word.extractLsb' 18 14 = 0 ∧
     ∀ e : Event, (hostRead (regAddr .status) 4 (raise e s)).readData = word ||| BitVec.twoPow 32 (eventCode e)) ∧
    ∀ v : Word, ∃ t, hostWrite (regAddr .status) 4 v s = .next t ∧ t = { s with sticky := t.sticky } ∧
      ∀ i, 8 ≤ i → i ≤ 17 →
        ((statusWord t).getLsbD i = true ↔ (statusWord s).getLsbD i = true ∧ v.getLsbD i = false)

/-- R66, R21 to R40, R54, R61, R63: a read of a mapped word changes nothing but the value returned: a register
its contents, written out register by register in `contentsOf` for every register of R54 (STATUS is the word of
StatusReadsAndClears), a transform-table or output-buffer word the four bytes at its address, the lowest byte
first. -/
def Obligations.ReadsHaveNoSideEffect : Prop :=
  ∀ s : State,
    (contentsOf s).map Prod.fst = resetTable.map Prod.fst ∧
    (∀ p ∈ contentsOf s, hostRead (BitVec.ofNat 20 p.1) 4 s = { s with readData := p.2 }) ∧
    ∀ a : BitVec 20, s.params.valid → a.toNat % 4 = 0 →
      (0x1000 ≤ a.toNat ∧ a.toNat < 0x1000 + 64 * s.params.kMax) ∨
        (0x40000 ≤ a.toNat ∧ a.toNat < 0x40000 + 4 * s.params.nMax) →
      ∃ v, hostRead a 4 s = { s with readData := v } ∧
        ∀ j, j < 4 → v.extractLsb' (8 * j) 8 = readByte s.mem (a.toNat + j)

/-! ## Reset and what every step keeps -/

/-- R340, R341, R54, U17: after reset every register reads its reset value, every byte of memory reads 0, the
sequencer is IDLE with no stop pending, and the stopwatches and CAP_VALID are 0. A reset in any state gives
those values everywhere in the block, whatever iteration or call it interrupts, and makes no external call; the
wire keeps its bytes and gets the first `n` of a write that the reset abandons, for any n; the answers to the
calls before it are gone, and later calls get `a`. What else lies outside the block stays (log 10), and so do
the parameters (log 1). -/
def Obligations.ResetLeavesTheTabledValues : Prop :=
  (∀ p ∈ resetTable, hostRead (BitVec.ofNat 20 p.1) 4 State.reset = { State.reset with readData := p.2 }) ∧
  (∀ a, readByte State.reset.mem a = 0) ∧ State.reset.pos = .idle ∧ State.reset.stopPend = false ∧
  State.reset.gov = { rswStart := 0, cswStart := 0, capValid := false } ∧
  ∀ (s : State) (n : Nat) (a : Answers),
    let leaving (bytes : List Byte) : State := { State.reset with
      params := s.params, wire := s.wire ++ bytes, pending := s.pending, later := s.later, answers := a
      readData := s.readData, calls := s.calls, draws := s.draws }
    (InHeaderWrite s → perform (.reset n a) s = .next (leaving ((header (ledN s)).take n))) ∧
    (InPayloadWrite s → perform (.reset n a) s = .next (leaving ((payload s (ledN s)).take n))) ∧
    (¬ InHeaderWrite s → ¬ InPayloadWrite s → perform (.reset n a) s = .next (leaving []))

/-- The invariant holds at reset, of every instance: State.reset has the reference parameters (log 1), and so it
does with any other valid ones (R10). -/
def Obligations.InvariantHoldsAtReset : Prop :=
  Inv State.reset ∧ ∀ p : Params, p.valid → Inv { State.reset with params := p }

/-- Every step keeps the invariant, from every state: the memory stays canonical and inside its windows,
reserved bits stay 0, the sequencer runs only a configuration that START accepts (R241, R51), the LED index
stays below N, STOP_PEND is set only while running (R23); and no step changes the parameters (R10). -/
def Obligations.EveryStepKeepsTheInvariant : Prop :=
  ∀ s t : State, Inv s → step s = .next t → Inv t ∧ t.params = s.params

/-- R51, R74: while the sequencer runs, no step but a reset changes a configuration register or a byte below
the output buffer, so none of the transform table. A step is a reset only where a reset is the first request
listed and no own step of the block comes before it (log 5); resets further on make no difference. -/
def Obligations.RunningNeverChangesConfiguration : Prop :=
  ∀ s t : State, s.pos ≠ .idle →
    (∀ r rest, (replenish s).pending = r :: rest →
      isReset r.act = false ∨ (r.after ≠ 0 ∧ ownEnabled (replenish s) = true)) →
    step s = .next t →
    t.cfg = s.cfg ∧ ∀ a, a < 0x40000 → readByte t.mem a = readByte s.mem a

/-- R68, R341: no step, reset included, takes a byte from the wire or changes one: the wire only grows at its
end. -/
def Obligations.WireOnlyGrows : Prop :=
  ∀ s t : State, step s = .next t → ∃ bytes : List Byte, t.wire = s.wire ++ bytes

/-- R313: a step raises at most one event: at most one sticky bit is newly set. -/
def Obligations.AtMostOneEventPerStep : Prop :=
  ∀ s t : State, step s = .next t → ∃ e : Event, ∀ i,
    t.sticky.getLsbD i = true → s.sticky.getLsbD i = true ∨ i = eventCode e - 8

/-- R333, U9: no step is refused but one whose transport write is answered Ok(k) with k over the number of bytes
asked (log 8): k over 6 in a header write, k over 3N in a payload write, of the sequencer, of a waiting EMIT or
of the EMIT that the step issues; ordinary data never ends a run. -/
def Obligations.OnlyTransportOverreportStops : Prop :=
  ∀ s : State, (∃ t, step s = .next t) ∨
    (step s = .refused .transportOverreport ∧
      ((∃ k ws, s.answers.writes = .ok k :: ws ∧ 6 < k ∧ (InHeaderWrite s ∨ IssuesEmit s)) ∨
       (∃ k ws, s.answers.writes = .ok k :: ws ∧ 3 * ledN s < k ∧ InPayloadWrite s) ∨
       ∃ k ws, s.answers.writes = .ok 6 :: .ok k :: ws ∧ 3 * ledN s < k ∧
         (s.cmdWait = some .emitHeader ∨ IssuesEmit s)))

/-! ## The rest of a CMD write that waited -/

/-- R240, R227, R222, R223, R241: a CMD write that waited goes on when its answer is there: START reads the time
and enters S0; EMIT at its header write ends with a dropped frame on a short or failed write, waits at its
payload write where only the header's answer is there, and else goes on as one at its payload write, which ends
with a sent or a dropped frame. Nothing else changes. The waiting is the model's reading (log 7), the answers'
form and the calls' record are the model's (log 4, log 17). -/
def Obligations.WaitingCommandsComplete : Prop :=
  ∀ s : State,
    let head := header (ledN s)
    let pay := payload s (ledN s)
    (∀ t ts, s.cmdWait = some .startClock → s.answers.times = t :: ts →
      ownStep s = .next { afterCall .now { s.answers with times := ts } s with
        gov := { s.gov with rswStart := t }, pos := .boundary, cmdWait := none }) ∧
    (∀ a ws, s.cmdWait = some .emitHeader → s.answers.writes = a :: ws →
      let called := afterCall (.write head) { s.answers with writes := ws } s
      (∀ j, (a = .ok j ∧ j < 6) ∨ (a = .err j ∧ j ≤ 6) → ownStep s = .next { withStatusBit 9 called with
        wire := s.wire ++ head.take j, cmdWait := none
        cnt := { s.cnt with framesDropped := s.cnt.framesDropped + 1 } }) ∧
      (a = .ok 6 → ws = [] → ownStep s = .next { called with
        wire := s.wire ++ head, cmdWait := some .emitPayload }) ∧
      ∀ b vs, a = .ok 6 → ws = b :: vs →
        let both := afterCall (.write pay) { s.answers with writes := vs } called
        (b = .ok (3 * ledN s) → ownStep s = .next { both with
          wire := s.wire ++ head ++ pay, cmdWait := none
          cnt := { s.cnt with framesSent := s.cnt.framesSent + 1 } }) ∧
        ∀ j, (b = .ok j ∧ j < 3 * ledN s) ∨ (b = .err j ∧ j ≤ 3 * ledN s) →
          ownStep s = .next { withStatusBit 10 both with
            wire := s.wire ++ head ++ pay.take j, cmdWait := none
            cnt := { s.cnt with framesDropped := s.cnt.framesDropped + 1 } }) ∧
    (∀ a ws, s.cmdWait = some .emitPayload → s.answers.writes = a :: ws →
      let called := afterCall (.write pay) { s.answers with writes := ws } s
      (a = .ok (3 * ledN s) → ownStep s = .next { called with
        wire := s.wire ++ pay, cmdWait := none
        cnt := { s.cnt with framesSent := s.cnt.framesSent + 1 } }) ∧
      ∀ j, (a = .ok j ∧ j < 3 * ledN s) ∨ (a = .err j ∧ j ≤ 3 * ledN s) →
        ownStep s = .next { withStatusBit 10 called with
          wire := s.wire ++ pay.take j, cmdWait := none
          cnt := { s.cnt with framesDropped := s.cnt.framesDropped + 1 } })
end

