-- ==== Sys2Proof/Laws/Memory.lean ====
section
/-! SUPPORT. The laws of the byte memory: what a read gives after a write, and the canonical form. -/
namespace Sys2Proof.Machine

theorem readByte_nil (a : Nat) : readByte [] a = 0 := rfl

theorem readByte_eraseByte (m : Memory) (a b : Nat) :
    readByte (eraseByte m a) b = if b = a then 0 else readByte m b := by
  induction m with
  | nil => simp [eraseByte, readByte]
  | cons c rest ih =>
    obtain ⟨x, w⟩ := c
    rw [eraseByte] at ih ⊢
    by_cases hx : x = a
    · subst hx
      rw [List.filter_cons_of_neg (by simp), ih]
      by_cases hb : b = x <;> simp [readByte, hb]
    · by_cases hb : b = x
      · subst hb; simp [readByte, hx]
      · simp [readByte, ih, hx, hb]

theorem readByte_insertByte (m : Memory) (a b : Nat) (v : Byte) (h : ∀ c ∈ m, c.1 ≠ a) :
    readByte (insertByte m a v) b = if b = a then v else readByte m b := by
  induction m with
  | nil => simp [insertByte, readByte]
  | cons c rest ih =>
    obtain ⟨x, w⟩ := c
    have hx : x ≠ a := h (x, w) (by simp)
    have ih := ih (fun c hc => h c (by simp [hc]))
    rw [insertByte]
    split
    · simp [readByte]
    · by_cases hb : b = x
      · subst hb; simp [readByte, hx]
      · simp [readByte, hb, ih]

theorem mem_eraseByte {m : Memory} {a : Nat} {c : Host.Cell} :
    c ∈ eraseByte m a ↔ c ∈ m ∧ c.1 ≠ a := by simp [eraseByte]

/-- A write changes the byte at its address and no other. -/
theorem readByte_writeByte (m : Memory) (a b : Nat) (v : Byte) :
    readByte (writeByte m a v) b = if b = a then v else readByte m b := by
  rw [writeByte]
  split
  · subst_vars; exact readByte_eraseByte m a b
  · rw [readByte_insertByte _ _ _ _ (fun c hc => (mem_eraseByte.1 hc).2), readByte_eraseByte]
    split <;> rfl

/-- A word write changes the four bytes at its address, little-endian, and no other. -/
theorem readByte_writeWord (m : Memory) (a b : Nat) (v : Word) :
    readByte (writeWord m a v) b =
      if b = a then v.extractLsb' 0 8 else if b = a + 1 then v.extractLsb' 8 8
      else if b = a + 2 then v.extractLsb' 16 8 else if b = a + 3 then v.extractLsb' 24 8
      else readByte m b := by
  simp only [writeWord, readByte_writeByte]
  split_ifs <;> first | rfl | omega

theorem word_of_bytes (v : Word) :
    v.extractLsb' 24 8 ++ v.extractLsb' 16 8 ++ v.extractLsb' 8 8 ++ v.extractLsb' 0 8 = v := by
  apply BitVec.eq_of_getLsbD_eq
  intro i hi
  simp only [BitVec.getLsbD_append, BitVec.getLsbD_extractLsb']
  by_cases h0 : i < 8
  · simp [h0]
  by_cases h1 : i < 16
  · simp [h0, show i - 8 < 8 by omega, show 8 + (i - 8) = i by omega]
  by_cases h2 : i < 24
  · simp [h0, show ¬ i - 8 < 8 by omega, show i - 8 - 8 < 8 by omega, show 16 + (i - 8 - 8) = i by omega]
  · simp [h0, show ¬ i - 8 < 8 by omega, show ¬ i - 8 - 8 < 8 by omega, show i - 8 - 8 - 8 < 8 by omega,
      show 24 + (i - 8 - 8 - 8) = i by omega]

/-- A word reads as it was written. -/
theorem readWord_writeWord_same (m : Memory) (a : Nat) (v : Word) : readWord (writeWord m a v) a = v := by
  simp only [readWord, readByte_writeWord]
  simp [word_of_bytes]

/-- A word write leaves every word that shares no byte with it. -/
theorem readWord_writeWord_disjoint (m : Memory) (a b : Nat) (v : Word) (h : b + 4 ≤ a ∨ a + 4 ≤ b) :
    readWord (writeWord m a v) b = readWord m b := by
  have hb : ∀ j, j < 4 → readByte (writeWord m a v) (b + j) = readByte m (b + j) := by
    intro j hj
    rw [readByte_writeWord]
    split_ifs <;> first | rfl | omega
  simp only [readWord, hb 1 (by omega), hb 2 (by omega), hb 3 (by omega)]
  rw [show readByte (writeWord m a v) b = readByte m b from hb 0 (by omega)]

/-- Clearing a range makes its bytes zero and changes no other. -/
theorem readByte_clearRange (m : Memory) (lo hi a : Nat) :
    readByte (clearRange m lo hi) a = if lo ≤ a ∧ a < hi then 0 else readByte m a := by
  induction m with
  | nil => simp [clearRange, readByte]
  | cons c rest ih =>
    obtain ⟨x, w⟩ := c
    rw [clearRange] at ih ⊢
    by_cases hx : lo ≤ x ∧ x < hi
    · rw [List.filter_cons_of_neg (by simpa using hx), ih]
      by_cases ha : a = x
      · subst ha; simp [hx]
      · simp [readByte, ha]
    · rw [List.filter_cons_of_pos (by simpa using by omega)]
      by_cases ha : a = x
      · subst ha; simp [readByte, hx]
      · simp only [readByte, ha, if_false, ih]

theorem readWord_clearRange_below (m : Memory) (lo hi a : Nat) (h : a + 4 ≤ lo) :
    readWord (clearRange m lo hi) a = readWord m a := by
  simp only [readWord, readByte_clearRange]
  simp [show ¬ lo ≤ a by omega, show ¬ lo ≤ a + 1 by omega, show ¬ lo ≤ a + 2 by omega,
    show ¬ lo ≤ a + 3 by omega]

theorem mem_insertByte {m : Memory} {a : Nat} {v : Byte} {c : Host.Cell} :
    c ∈ insertByte m a v ↔ c = (a, v) ∨ c ∈ m := by
  induction m with
  | nil => simp [insertByte]
  | cons d rest ih =>
    obtain ⟨x, w⟩ := d
    rw [insertByte]
    split
    · simp
    · simp [ih]; tauto

theorem insertByte_sorted {m : Memory} {a : Nat} {v : Byte} (hm : m.Pairwise (fun c d => c.1 < d.1))
    (h : ∀ c ∈ m, c.1 ≠ a) : (insertByte m a v).Pairwise (fun c d => c.1 < d.1) := by
  induction m with
  | nil => simp [insertByte]
  | cons d rest ih =>
    obtain ⟨x, w⟩ := d
    have hx : x ≠ a := h (x, w) (by simp)
    rw [List.pairwise_cons] at hm
    rw [insertByte]
    split
    · rename_i hlt
      refine List.pairwise_cons.2 ⟨fun c hc => ?_, List.pairwise_cons.2 hm⟩
      rcases List.mem_cons.1 hc with rfl | hc
      · exact hlt
      · exact lt_trans hlt (hm.1 c hc)
    · refine List.pairwise_cons.2 ⟨fun c hc => ?_, ih hm.2 (fun c hc => h c (by simp [hc]))⟩
      rcases mem_insertByte.1 hc with rfl | hc
      · show x < a; omega
      · exact hm.1 c hc

/-- The empty memory is canonical. -/
theorem wf_nil : Memory.wf [] := by simp [Memory.wf]

/-- A byte write keeps the canonical form. -/
theorem wf_writeByte {m : Memory} (a : Nat) (v : Byte) (h : Memory.wf m) : Memory.wf (writeByte m a v) := by
  have he : Memory.wf (eraseByte m a) :=
    ⟨h.1.filter _, fun c hc => h.2 c (mem_eraseByte.1 hc).1⟩
  rw [writeByte]
  split
  · exact he
  · rename_i hv
    refine ⟨insertByte_sorted he.1 (fun c hc => (mem_eraseByte.1 hc).2), fun c hc => ?_⟩
    rcases mem_insertByte.1 hc with rfl | hc
    · exact hv
    · exact he.2 c hc

/-- A word write keeps the canonical form. -/
theorem wf_writeWord {m : Memory} (a : Nat) (v : Word) (h : Memory.wf m) : Memory.wf (writeWord m a v) :=
  wf_writeByte _ _ (wf_writeByte _ _ (wf_writeByte _ _ (wf_writeByte _ _ h)))

/-- A store to the output buffer keeps the canonical form. -/
theorem wf_writeOut {m : Memory} (i : Nat) (c : Rgb8) (h : Memory.wf m) : Memory.wf (writeOut m i c) :=
  wf_writeWord _ _ h

/-- Clearing a range keeps the canonical form. -/
theorem wf_clearRange {m : Memory} (lo hi : Nat) (h : Memory.wf m) : Memory.wf (clearRange m lo hi) :=
  ⟨h.1.filter _, fun c hc => h.2 c (List.mem_of_mem_filter hc)⟩

/-- The reset memory is canonical. -/
theorem wf_reset : Memory.wf State.reset.mem := wf_nil

/-- A listed byte of a written memory was listed before or is one of the four written. -/
theorem mem_writeByte {m : Memory} {a : Nat} {v : Byte} {c : Host.Cell} (h : c ∈ writeByte m a v) :
    c ∈ m ∨ (c.1 = a ∧ v ≠ 0) := by
  rw [writeByte] at h
  split at h
  · exact .inl (mem_eraseByte.1 h).1
  · rename_i hv
    rcases mem_insertByte.1 h with rfl | h
    · exact .inr ⟨rfl, hv⟩
    · exact .inl (mem_eraseByte.1 h).1

end Sys2Proof.Machine
end

