-- ==== Sys2Proof/Laws/State.lean ====
section
/-! SUPPORT. One lemma per field for each named update of State. -/
namespace Sys2Proof.Machine

@[simp] theorem raise_params (e : Event) (s : State) : (raise e s).params = s.params := rfl
@[simp] theorem raise_cfg (e : Event) (s : State) : (raise e s).cfg = s.cfg := rfl
@[simp] theorem raise_sticky (e : Event) (s : State) : (raise e s).sticky = s.sticky ||| eventBit e := rfl
@[simp] theorem raise_stopPend (e : Event) (s : State) : (raise e s).stopPend = s.stopPend := rfl
@[simp] theorem raise_cnt (e : Event) (s : State) : (raise e s).cnt = s.cnt := rfl
@[simp] theorem raise_opnd (e : Event) (s : State) : (raise e s).opnd = s.opnd := rfl
@[simp] theorem raise_res (e : Event) (s : State) : (raise e s).res = s.res := rfl
@[simp] theorem raise_mem (e : Event) (s : State) : (raise e s).mem = s.mem := rfl
@[simp] theorem raise_pos (e : Event) (s : State) : (raise e s).pos = s.pos := rfl
@[simp] theorem raise_iter (e : Event) (s : State) : (raise e s).iter = s.iter := rfl
@[simp] theorem raise_gov (e : Event) (s : State) : (raise e s).gov = s.gov := rfl
@[simp] theorem raise_wire (e : Event) (s : State) : (raise e s).wire = s.wire := rfl
@[simp] theorem raise_pending (e : Event) (s : State) : (raise e s).pending = s.pending := rfl
@[simp] theorem raise_later (e : Event) (s : State) : (raise e s).later = s.later := rfl
@[simp] theorem raise_answers (e : Event) (s : State) : (raise e s).answers = s.answers := rfl
@[simp] theorem raise_cmdWait (e : Event) (s : State) : (raise e s).cmdWait = s.cmdWait := rfl
@[simp] theorem raise_readData (e : Event) (s : State) : (raise e s).readData = s.readData := rfl
@[simp] theorem raise_calls (e : Event) (s : State) : (raise e s).calls = s.calls := rfl
@[simp] theorem raise_draws (e : Event) (s : State) : (raise e s).draws = s.draws := rfl

@[simp] theorem dropFrame_params (s : State) : (dropFrame s).params = s.params := rfl
@[simp] theorem dropFrame_cfg (s : State) : (dropFrame s).cfg = s.cfg := rfl
@[simp] theorem dropFrame_sticky (s : State) : (dropFrame s).sticky = s.sticky := rfl
@[simp] theorem dropFrame_stopPend (s : State) : (dropFrame s).stopPend = s.stopPend := rfl
@[simp] theorem dropFrame_cnt (s : State) : (dropFrame s).cnt = { s.cnt with framesDropped := s.cnt.framesDropped + 1 } := rfl
@[simp] theorem dropFrame_opnd (s : State) : (dropFrame s).opnd = s.opnd := rfl
@[simp] theorem dropFrame_res (s : State) : (dropFrame s).res = s.res := rfl
@[simp] theorem dropFrame_mem (s : State) : (dropFrame s).mem = s.mem := rfl
@[simp] theorem dropFrame_pos (s : State) : (dropFrame s).pos = s.pos := rfl
@[simp] theorem dropFrame_iter (s : State) : (dropFrame s).iter = s.iter := rfl
@[simp] theorem dropFrame_gov (s : State) : (dropFrame s).gov = s.gov := rfl
@[simp] theorem dropFrame_wire (s : State) : (dropFrame s).wire = s.wire := rfl
@[simp] theorem dropFrame_pending (s : State) : (dropFrame s).pending = s.pending := rfl
@[simp] theorem dropFrame_later (s : State) : (dropFrame s).later = s.later := rfl
@[simp] theorem dropFrame_answers (s : State) : (dropFrame s).answers = s.answers := rfl
@[simp] theorem dropFrame_cmdWait (s : State) : (dropFrame s).cmdWait = s.cmdWait := rfl
@[simp] theorem dropFrame_readData (s : State) : (dropFrame s).readData = s.readData := rfl
@[simp] theorem dropFrame_calls (s : State) : (dropFrame s).calls = s.calls := rfl
@[simp] theorem dropFrame_draws (s : State) : (dropFrame s).draws = s.draws := rfl

@[simp] theorem logCall_params (c : Call) (s : State) : (logCall c s).params = s.params := rfl
@[simp] theorem logCall_cfg (c : Call) (s : State) : (logCall c s).cfg = s.cfg := rfl
@[simp] theorem logCall_sticky (c : Call) (s : State) : (logCall c s).sticky = s.sticky := rfl
@[simp] theorem logCall_stopPend (c : Call) (s : State) : (logCall c s).stopPend = s.stopPend := rfl
@[simp] theorem logCall_cnt (c : Call) (s : State) : (logCall c s).cnt = s.cnt := rfl
@[simp] theorem logCall_opnd (c : Call) (s : State) : (logCall c s).opnd = s.opnd := rfl
@[simp] theorem logCall_res (c : Call) (s : State) : (logCall c s).res = s.res := rfl
@[simp] theorem logCall_mem (c : Call) (s : State) : (logCall c s).mem = s.mem := rfl
@[simp] theorem logCall_pos (c : Call) (s : State) : (logCall c s).pos = s.pos := rfl
@[simp] theorem logCall_iter (c : Call) (s : State) : (logCall c s).iter = s.iter := rfl
@[simp] theorem logCall_gov (c : Call) (s : State) : (logCall c s).gov = s.gov := rfl
@[simp] theorem logCall_wire (c : Call) (s : State) : (logCall c s).wire = s.wire := rfl
@[simp] theorem logCall_pending (c : Call) (s : State) : (logCall c s).pending = s.pending := rfl
@[simp] theorem logCall_later (c : Call) (s : State) : (logCall c s).later = s.later := rfl
@[simp] theorem logCall_answers (c : Call) (s : State) : (logCall c s).answers = s.answers := rfl
@[simp] theorem logCall_cmdWait (c : Call) (s : State) : (logCall c s).cmdWait = s.cmdWait := rfl
@[simp] theorem logCall_readData (c : Call) (s : State) : (logCall c s).readData = s.readData := rfl
@[simp] theorem logCall_calls (c : Call) (s : State) : (logCall c s).calls = s.calls ++ [c] := rfl
@[simp] theorem logCall_draws (c : Call) (s : State) : (logCall c s).draws = s.draws := rfl

@[simp] theorem applyReset_params (n : Nat) (a : Answers) (s : State) : (applyReset n a s).params = s.params := rfl
@[simp] theorem applyReset_cfg (n : Nat) (a : Answers) (s : State) : (applyReset n a s).cfg = State.reset.cfg := rfl
@[simp] theorem applyReset_sticky (n : Nat) (a : Answers) (s : State) : (applyReset n a s).sticky = State.reset.sticky := rfl
@[simp] theorem applyReset_stopPend (n : Nat) (a : Answers) (s : State) : (applyReset n a s).stopPend = State.reset.stopPend := rfl
@[simp] theorem applyReset_cnt (n : Nat) (a : Answers) (s : State) : (applyReset n a s).cnt = State.reset.cnt := rfl
@[simp] theorem applyReset_opnd (n : Nat) (a : Answers) (s : State) : (applyReset n a s).opnd = State.reset.opnd := rfl
@[simp] theorem applyReset_res (n : Nat) (a : Answers) (s : State) : (applyReset n a s).res = State.reset.res := rfl
@[simp] theorem applyReset_mem (n : Nat) (a : Answers) (s : State) : (applyReset n a s).mem = State.reset.mem := rfl
@[simp] theorem applyReset_pos (n : Nat) (a : Answers) (s : State) : (applyReset n a s).pos = State.reset.pos := rfl
@[simp] theorem applyReset_iter (n : Nat) (a : Answers) (s : State) : (applyReset n a s).iter = State.reset.iter := rfl
@[simp] theorem applyReset_gov (n : Nat) (a : Answers) (s : State) : (applyReset n a s).gov = State.reset.gov := rfl
@[simp] theorem applyReset_wire (n : Nat) (a : Answers) (s : State) : (applyReset n a s).wire =
    s.wire ++ (outstandingBytes s).take n := rfl
@[simp] theorem applyReset_pending (n : Nat) (a : Answers) (s : State) : (applyReset n a s).pending = s.pending := rfl
@[simp] theorem applyReset_later (n : Nat) (a : Answers) (s : State) : (applyReset n a s).later = s.later := rfl
@[simp] theorem applyReset_answers (n : Nat) (a : Answers) (s : State) : (applyReset n a s).answers = a := rfl
@[simp] theorem applyReset_cmdWait (n : Nat) (a : Answers) (s : State) : (applyReset n a s).cmdWait = State.reset.cmdWait := rfl
@[simp] theorem applyReset_readData (n : Nat) (a : Answers) (s : State) : (applyReset n a s).readData = s.readData := rfl
@[simp] theorem applyReset_calls (n : Nat) (a : Answers) (s : State) : (applyReset n a s).calls = s.calls := rfl
@[simp] theorem applyReset_draws (n : Nat) (a : Answers) (s : State) : (applyReset n a s).draws = s.draws := rfl

@[simp] theorem receive_params (a : Answers) (s : State) : (receive a s).params = s.params := rfl
@[simp] theorem receive_cfg (a : Answers) (s : State) : (receive a s).cfg = s.cfg := rfl
@[simp] theorem receive_sticky (a : Answers) (s : State) : (receive a s).sticky = s.sticky := rfl
@[simp] theorem receive_stopPend (a : Answers) (s : State) : (receive a s).stopPend = s.stopPend := rfl
@[simp] theorem receive_cnt (a : Answers) (s : State) : (receive a s).cnt = s.cnt := rfl
@[simp] theorem receive_opnd (a : Answers) (s : State) : (receive a s).opnd = s.opnd := rfl
@[simp] theorem receive_res (a : Answers) (s : State) : (receive a s).res = s.res := rfl
@[simp] theorem receive_mem (a : Answers) (s : State) : (receive a s).mem = s.mem := rfl
@[simp] theorem receive_pos (a : Answers) (s : State) : (receive a s).pos = s.pos := rfl
@[simp] theorem receive_iter (a : Answers) (s : State) : (receive a s).iter = s.iter := rfl
@[simp] theorem receive_gov (a : Answers) (s : State) : (receive a s).gov = s.gov := rfl
@[simp] theorem receive_wire (a : Answers) (s : State) : (receive a s).wire = s.wire := rfl
@[simp] theorem receive_pending (a : Answers) (s : State) : (receive a s).pending = s.pending := rfl
@[simp] theorem receive_later (a : Answers) (s : State) : (receive a s).later = s.later := rfl
@[simp] theorem receive_answers (a : Answers) (s : State) : (receive a s).answers = s.answers.append a := rfl
@[simp] theorem receive_cmdWait (a : Answers) (s : State) : (receive a s).cmdWait = s.cmdWait := rfl
@[simp] theorem receive_readData (a : Answers) (s : State) : (receive a s).readData = s.readData := rfl
@[simp] theorem receive_calls (a : Answers) (s : State) : (receive a s).calls = s.calls := rfl
@[simp] theorem receive_draws (a : Answers) (s : State) : (receive a s).draws = s.draws := rfl

/-- Listing the later requests changes the requests and nothing else. -/
theorem replenish_eq (s : State) :
    replenish s = { s with pending := (replenish s).pending, later := (replenish s).later } := by
  unfold replenish
  split
  · rfl
  · split <;> rfl

@[simp] theorem replenish_params (s : State) : (replenish s).params = s.params := by rw [replenish_eq]
@[simp] theorem replenish_cfg (s : State) : (replenish s).cfg = s.cfg := by rw [replenish_eq]
@[simp] theorem replenish_sticky (s : State) : (replenish s).sticky = s.sticky := by rw [replenish_eq]
@[simp] theorem replenish_stopPend (s : State) : (replenish s).stopPend = s.stopPend := by rw [replenish_eq]
@[simp] theorem replenish_cnt (s : State) : (replenish s).cnt = s.cnt := by rw [replenish_eq]
@[simp] theorem replenish_opnd (s : State) : (replenish s).opnd = s.opnd := by rw [replenish_eq]
@[simp] theorem replenish_res (s : State) : (replenish s).res = s.res := by rw [replenish_eq]
@[simp] theorem replenish_mem (s : State) : (replenish s).mem = s.mem := by rw [replenish_eq]
@[simp] theorem replenish_pos (s : State) : (replenish s).pos = s.pos := by rw [replenish_eq]
@[simp] theorem replenish_iter (s : State) : (replenish s).iter = s.iter := by rw [replenish_eq]
@[simp] theorem replenish_gov (s : State) : (replenish s).gov = s.gov := by rw [replenish_eq]
@[simp] theorem replenish_wire (s : State) : (replenish s).wire = s.wire := by rw [replenish_eq]
@[simp] theorem replenish_answers (s : State) : (replenish s).answers = s.answers := by rw [replenish_eq]
@[simp] theorem replenish_cmdWait (s : State) : (replenish s).cmdWait = s.cmdWait := by rw [replenish_eq]
@[simp] theorem replenish_readData (s : State) : (replenish s).readData = s.readData := by rw [replenish_eq]
@[simp] theorem replenish_calls (s : State) : (replenish s).calls = s.calls := by rw [replenish_eq]
@[simp] theorem replenish_draws (s : State) : (replenish s).draws = s.draws := by rw [replenish_eq]
@[simp] theorem replenish_of_pending {s : State} {r : Request} {rest : List Request} (h : s.pending = r :: rest) :
    replenish s = s := by unfold replenish; rw [h]
@[simp] theorem replenish_of_quiet {s : State} (h : s.later = .quiet) : replenish s = s := by
  unfold replenish; rw [h]; split <;> rfl

/-- The quantities read from the configuration registers do not change with the rest of the state. -/
theorem ledN_congr {s t : State} (h : t.cfg = s.cfg) : ledN t = ledN s := by rw [ledN, ledN, h]

theorem xformK_congr {s t : State} (h : t.cfg = s.cfg) : xformK t = xformK s := by rw [xformK, xformK, h]

theorem xfWord_congr {s t : State} (h : t.mem = s.mem) (k w : Nat) : xfWord t k w = xfWord s k w := by
  rw [xfWord, xfWord, h]

theorem readOut_congr {s t : State} (h : t.mem = s.mem) (i : Nat) : readOut t i = readOut s i := by
  rw [readOut, readOut, h]

end Sys2Proof.Machine
end

