-- ==== Sys2Proof/Laws/Ops.lean ====
section
/-! SUPPORT. One lemma per shared operation, saying everything it can do. -/
namespace Sys2Proof.Machine

/-! ## Acceptance -/

theorem whenIdle_idle {s : State} (h : s.pos = .idle) (run : Host.Outcome State Fault Refusal) :
    whenIdle s run = run := by simp [whenIdle, h]

theorem whenIdle_busy {s : State} (h : s.pos ≠ .idle) (run : Host.Outcome State Fault Refusal) :
    whenIdle s run = .next (raise .eCmdBusy s) := by simp [whenIdle, h]

theorem whenEntry_ok {s : State} {k : Nat} (h : k < s.params.kMax) (run : Host.Outcome State Fault Refusal) :
    whenEntry k s run = run := by simp [whenEntry, h]

theorem whenEntry_out {s : State} {k : Nat} (h : s.params.kMax ≤ k) (run : Host.Outcome State Fault Refusal) :
    whenEntry k s run = .next (raise .eIndex s) := by simp [whenEntry, Nat.not_lt.2 h]

theorem ledCountValid_iff {s : State} : ledCountValid s = true ↔ 1 ≤ ledN s ∧ ledN s ≤ s.params.nMax := by
  simp [ledCountValid]

theorem whenLedCount_ok {s : State} (h : ledCountValid s = true) (run : Host.Outcome State Fault Refusal) :
    whenLedCount s run = run := by simp [whenLedCount, h]

theorem whenLedCount_out {s : State} (h : ledCountValid s = false) (run : Host.Outcome State Fault Refusal) :
    whenLedCount s run = .next (raise .eConfig s) := by simp [whenLedCount, h]

/-- A guarded command answers a next state only by its event or by its own effect. -/
theorem whenIdle_next {s t : State} {run : Host.Outcome State Fault Refusal} (h : whenIdle s run = .next t) :
    (s.pos ≠ .idle ∧ t = raise .eCmdBusy s) ∨ (s.pos = .idle ∧ run = .next t) := by
  by_cases hp : s.pos = .idle
  · exact .inr ⟨hp, by rwa [whenIdle_idle hp] at h⟩
  · rw [whenIdle_busy hp] at h; injection h with h; exact .inl ⟨hp, h.symm⟩

theorem settle_next {s t : State} {p : Progress} (h : settle s p = .next t) :
    (p = .waiting ∧ t = s) ∨ p = .done t := by
  cases p <;> simp_all [settle]

/-! ## External calls: the answer taken, the call noted, nothing else changed -/

theorem callNow_eq_some {s u : State} {t : Nanos} (h : callNow s = some (t, u)) :
    ∃ ts, s.answers.times = t :: ts ∧
      u = { s with answers := { s.answers with times := ts }, calls := s.calls ++ [.now] } := by
  cases ht : s.answers.times with
  | nil => simp [callNow, ht] at h
  | cons x xs => simp [callNow, ht, logCall] at h; exact ⟨xs, by simp [h.1], h.2.symm⟩

theorem callCapture_eq_some {s u : State} {ok : Bool} (h : callCapture s = some (ok, u)) :
    ∃ cs, s.answers.captures = ok :: cs ∧
      u = { s with answers := { s.answers with captures := cs }, calls := s.calls ++ [.captureFrame] } := by
  cases ht : s.answers.captures with
  | nil => simp [callCapture, ht] at h
  | cons x xs => simp [callCapture, ht, logCall] at h; exact ⟨xs, by simp [h.1], h.2.symm⟩

theorem callFrame_eq_some {s u : State} {f : Option Nat} (h : callFrame s = some (f, u)) :
    ∃ fs, s.answers.frames = f :: fs ∧
      u = { s with answers := { s.answers with frames := fs }, calls := s.calls ++ [.getStoredFrame] } := by
  cases ht : s.answers.frames with
  | nil => simp [callFrame, ht] at h
  | cons x xs => simp [callFrame, ht, logCall] at h; exact ⟨xs, by simp [h.1], h.2.symm⟩

theorem callGeometry_eq_some {s u : State} {g : Word × Word} (h : callGeometry s = some (g, u)) :
    ∃ gs, s.answers.geometries = g :: gs ∧
      u = { s with answers := { s.answers with geometries := gs }, calls := s.calls ++ [.geometry] } := by
  cases ht : s.answers.geometries with
  | nil => simp [callGeometry, ht] at h
  | cons x xs => simp [callGeometry, ht, logCall] at h; exact ⟨xs, by simp [h.1], h.2.symm⟩

theorem callReinit_eq_some {s u : State} (h : callReinit s = some u) :
    ∃ n, s.answers.reinits = n + 1 ∧
      u = { s with answers := { s.answers with reinits := n }, calls := s.calls ++ [.captureReinit] } := by
  cases ht : s.answers.reinits with
  | zero => simp [callReinit, ht] at h
  | succ n => simp [callReinit, ht, logCall] at h; exact ⟨n, by simp, h.symm⟩

theorem callAverage_eq_some {s u : State} {c : Rgb8} (h : callAverage s = some (c, u)) :
    ∃ cs, s.answers.averages = c :: cs ∧
      u = { s with
        answers := { s.answers with averages := cs }
        calls := s.calls ++ [.averageColor s.iter.frame s.iter.led s.iter.srcW s.iter.srcH s.cfg.targetW
          s.cfg.targetH] } := by
  cases ht : s.answers.averages with
  | nil => simp [callAverage, ht] at h
  | cons x xs => simp [callAverage, ht, logCall] at h; exact ⟨xs, by simp [h.1], h.2.symm⟩

theorem callSleep_eq_some {d : Nanos} {s u : State} (h : callSleep d s = some u) :
    ∃ n, s.answers.sleeps = n + 1 ∧
      u = { s with answers := { s.answers with sleeps := n }, calls := s.calls ++ [.sleep d] } := by
  cases ht : s.answers.sleeps with
  | zero => simp [callSleep, ht] at h
  | succ n => simp [callSleep, ht, logCall] at h; exact ⟨n, by simp, h.symm⟩

/-- A transport call that returned put a number of first bytes on the wire, all of them and no fewer where it
was exact. -/
theorem callWrite_returned {bytes : List Byte} {s u : State} {ok : Bool}
    (h : callWrite bytes s = .returned ok u) :
    ∃ k a ws, s.answers.writes = a :: ws ∧ (ok = true → a = .ok bytes.length ∧ k = bytes.length) ∧
      u = { s with
        wire := s.wire ++ bytes.take k, answers := { s.answers with writes := ws }
        calls := s.calls ++ [.write bytes] } := by
  cases ht : s.answers.writes with
  | nil => simp [callWrite, ht] at h
  | cons a ws =>
    cases a with
    | ok k =>
      simp only [callWrite, ht] at h
      split at h
      · injection h with h1 h2
        exact ⟨k, .ok k, ws, rfl, fun hk => by simp_all, by simp [← h2, logCall]⟩
      · cases h
    | err j =>
      simp only [callWrite, ht] at h
      injection h with h1 h2
      exact ⟨j, .err j, ws, rfl, fun hk => by simp_all, by simp [← h2, logCall]⟩

theorem callWrite_ok {bytes : List Byte} {s : State} {k : Nat} {ws : List WriteAnswer}
    (h : s.answers.writes = .ok k :: ws) (hk : k ≤ bytes.length) :
    callWrite bytes s = .returned (k == bytes.length)
      { s with
        wire := s.wire ++ bytes.take k, answers := { s.answers with writes := ws }
        calls := s.calls ++ [.write bytes] } := by
  simp [callWrite, h, hk, logCall]

theorem callWrite_err {bytes : List Byte} {s : State} {j : Nat} {ws : List WriteAnswer}
    (h : s.answers.writes = .err j :: ws) :
    callWrite bytes s = .returned false
      { s with
        wire := s.wire ++ bytes.take j, answers := { s.answers with writes := ws }
        calls := s.calls ++ [.write bytes] } := by
  simp [callWrite, h, logCall]

theorem callWrite_overreport {bytes : List Byte} {s : State} (h : callWrite bytes s = .overreport) :
    ∃ k ws, s.answers.writes = .ok k :: ws ∧ bytes.length < k := by
  cases ht : s.answers.writes with
  | nil => simp [callWrite, ht] at h
  | cons a ws =>
    cases a with
    | ok k => exact ⟨k, ws, rfl, by by_contra hk; simp [callWrite, ht, Nat.not_lt.1 hk] at h⟩
    | err j => simp [callWrite, ht] at h

/-! ## Frame emission -/

theorem header_length (n : Nat) : (header n).length = 6 := rfl

theorem payload_length (s : State) (n : Nat) : (payload s n).length = 3 * n := by
  simp [payload, List.length_flatMap, Nat.mul_comm]

/-- What the header write can come to. -/
theorem sendHeader_cases (s : State) :
    (sendHeader s = .waiting ∧ s.answers.writes = []) ∨
    (sendHeader s = .refused .transportOverreport ∧ ∃ k ws, s.answers.writes = .ok k :: ws ∧ 6 < k) ∨
    ∃ k a ws, s.answers.writes = a :: ws ∧
      (let u := { s with
        wire := s.wire ++ (header (ledN s)).take k, answers := { s.answers with writes := ws }
        calls := s.calls ++ [.write (header (ledN s))] }
       (a = .ok 6 ∧ k = 6 ∧ sendHeader s = .sent u) ∨ sendHeader s = .dropped (dropFrame (raise .eTxHdr u))) := by
  cases hc : callWrite (header (ledN s)) s with
  | outstanding =>
    refine .inl ⟨by simp [sendHeader, hc], ?_⟩
    cases ht : s.answers.writes with
    | nil => rfl
    | cons a ws => cases a <;> simp only [callWrite, ht] at hc <;> [split at hc <;> cases hc; cases hc]
  | overreport => exact .inr (.inl ⟨by simp [sendHeader, hc], callWrite_overreport hc⟩)
  | returned ok u =>
    obtain ⟨k, a, ws, ha, hok, rfl⟩ := callWrite_returned hc
    refine .inr (.inr ⟨k, a, ws, ha, ?_⟩)
    cases ok with
    | true => exact .inl ⟨(hok rfl).1, (hok rfl).2, by simp [sendHeader, hc]⟩
    | false => exact .inr (by simp [sendHeader, hc])

/-- What the payload write can come to. -/
theorem sendPayload_cases (s : State) :
    (sendPayload s = .waiting ∧ s.answers.writes = []) ∨
    (sendPayload s = .refused .transportOverreport ∧
      ∃ k ws, s.answers.writes = .ok k :: ws ∧ 3 * ledN s < k) ∨
    ∃ k a ws, s.answers.writes = a :: ws ∧
      (let u := { s with
        wire := s.wire ++ (payload s (ledN s)).take k, answers := { s.answers with writes := ws }
        calls := s.calls ++ [.write (payload s (ledN s))] }
       (a = .ok (3 * ledN s) ∧ k = 3 * ledN s ∧
          sendPayload s = .sent { u with cnt := { u.cnt with framesSent := u.cnt.framesSent + 1 } }) ∨
        sendPayload s = .dropped (dropFrame (raise .eTxPay u))) := by
  cases hc : callWrite (payload s (ledN s)) s with
  | outstanding =>
    refine .inl ⟨by simp [sendPayload, hc], ?_⟩
    cases ht : s.answers.writes with
    | nil => rfl
    | cons a ws => cases a <;> simp only [callWrite, ht] at hc <;> [split at hc <;> cases hc; cases hc]
  | overreport =>
    refine .inr (.inl ⟨by simp [sendPayload, hc], ?_⟩)
    simpa [payload_length] using callWrite_overreport hc
  | returned ok u =>
    obtain ⟨k, a, ws, ha, hok, rfl⟩ := callWrite_returned hc
    refine .inr (.inr ⟨k, a, ws, ha, ?_⟩)
    rw [payload_length] at hok
    cases ok with
    | true => exact .inl ⟨(hok rfl).1, (hok rfl).2, by simp [sendPayload, hc]⟩
    | false => exact .inr (by simp [sendPayload, hc])

/-- What a reset can leave on the wire of the write it abandons: bytes of the header, of the payload, or none. -/
theorem outstandingBytes_cases (s : State) :
    ((s.cmdWait = some .emitHeader ∨ (s.cmdWait = none ∧ s.pos = .emitHeader)) ∧
      outstandingBytes s = header (ledN s)) ∨
    ((s.cmdWait = some .emitPayload ∨ (s.cmdWait = none ∧ s.pos = .emitPayload)) ∧
      outstandingBytes s = payload s (ledN s)) ∨
    (¬ (s.cmdWait = some .emitHeader ∨ (s.cmdWait = none ∧ s.pos = .emitHeader)) ∧
      ¬ (s.cmdWait = some .emitPayload ∨ (s.cmdWait = none ∧ s.pos = .emitPayload)) ∧
      outstandingBytes s = []) := by
  unfold outstandingBytes
  cases hc : s.cmdWait with
  | none => cases hp : s.pos <;> simp
  | some w => cases w <;> simp

/-! ## The register map -/

theorem regAt_regOffset (r : Reg) : regAt (regOffset r) = some r := by cases r <;> decide

theorem regOffset_aligned (r : Reg) : regOffset r % 4 = 0 ∧ regOffset r < 0x1000 := by cases r <;> decide

/-- An access to a register's offset selects that register, for every instance. -/
theorem accessTarget_reg (s : State) (r : Reg) :
    accessTarget s (BitVec.ofNat 20 (regOffset r)) 4 = .reg r := by
  have h := regOffset_aligned r
  have hn : (BitVec.ofNat 20 (regOffset r)).toNat = regOffset r := by
    rw [BitVec.toNat_ofNat]; omega
  simp [accessTarget, accessOk, hn, h.1, targetOf, h.2, regAt_regOffset]

theorem hostRead_reg (s : State) (r : Reg) :
    hostRead (BitVec.ofNat 20 (regOffset r)) 4 s = { s with readData := readReg s r } := by
  simp [hostRead, accessTarget_reg]

theorem hostWrite_reg (s : State) (r : Reg) (v : Word) :
    hostWrite (BitVec.ofNat 20 (regOffset r)) 4 v s = writeReg r v s := by
  simp [hostWrite, accessTarget_reg]

/-- A write of CMD issues its word. -/
theorem hostWrite_cmd (s : State) (v : Word) : hostWrite cmdAddr 4 v s = issueCommand v s := by
  simpa [cmdAddr, writeReg, regClass] using hostWrite_reg s .cmd v

end Sys2Proof.Machine
end

