-- ==== Sys2Proof/Laws/PerInstr.lean ====
section
/-! SUPPORT. What holds of each command as syntax: the family SelectedByOpcode. -/
namespace Sys2Proof.Laws.SelectedByOpcode

/-- The encoding of a command is selected by its row of the opcode map: word & 0xFF0000FF = OP (30_encoding.md
R92). -/
def Statement (i : Instr) : Prop := encode i &&& 0xFF0000FF#32 = BitVec.ofNat 32 (opcodeOf i)

/-- A word built from RSV = 0, any IDX and an OP keeps its OP and RSV under the mask. -/
theorem masked_word (idx : BitVec 16) (op : BitVec 8) :
    (0#8 ++ idx ++ op : Word) &&& 0xFF0000FF#32 = op.zeroExtend 32 := by
  ext j hj
  simp only [BitVec.getElem_and, BitVec.getElem_append, BitVec.getElem_setWidth]
  have hm : ∀ j, (h : j < 32) → (0xFF0000FF#32)[j] = decide (j < 8 ∨ 24 ≤ j) := by decide
  rw [hm j hj]
  by_cases h0 : j < 8
  · simp [h0]
  · by_cases h1 : j < 24
    · simp [h0, show ¬ 24 ≤ j by omega, BitVec.getLsbD_of_ge op j (by omega)]
    · simp [h0, show ¬ j - 8 < 16 by omega, BitVec.getLsbD_of_ge op j (by omega)]

theorem nop (idx : Nat) : Statement (.nop idx) := masked_word _ _
theorem rgb2hsv (idx : Nat) : Statement (.rgb2hsv idx) := masked_word _ _
theorem hsv2rgb (idx : Nat) : Statement (.hsv2rgb idx) := masked_word _ _
theorem chan (k : Nat) : Statement (.chan k) := masked_word _ _
theorem gain (k : Nat) : Statement (.gain k) := masked_word _ _
theorem pipe (i : Nat) : Statement (.pipe i) := masked_word _ _
theorem smooth (idx : Nat) : Statement (.smooth idx) := masked_word _ _
theorem factor (idx : Nat) : Statement (.factor idx) := masked_word _ _
theorem hdr (idx : Nat) : Statement (.hdr idx) := masked_word _ _
theorem emit (idx : Nat) : Statement (.emit idx) := masked_word _ _
theorem start (idx : Nat) : Statement (.start idx) := masked_word _ _
theorem stop (idx : Nat) : Statement (.stop idx) := masked_word _ _

end Sys2Proof.Laws.SelectedByOpcode
end

