-- ==== Sys2Proof/Laws/Step.lean ====
section
/-! SUPPORT. What one step can be. -/
namespace Sys2Proof.Machine

/-- A step is the block's own, with no request listed that can take effect or before one that waits its turn, or
it is the first listed request. -/
theorem step_cases (s : State) :
    (step s = ownStep (replenish s) ∧
      ∀ r rest, (replenish s).pending = r :: rest → requestOpen s r.act = false) ∨
    ∃ r rest, (replenish s).pending = r :: rest ∧ requestOpen s r.act = true ∧
      ((r.after ≠ 0 ∧ ownEnabled (replenish s) = true ∧
        step s = ownStep { replenish s with pending := { r with after := r.after - 1 } :: rest }) ∨
       ((r.after = 0 ∨ ownEnabled (replenish s) = false) ∧
        step s = perform r.act { replenish s with pending := rest })) := by
  have hopen : ∀ act, requestOpen (replenish s) act = requestOpen s act := fun act => by simp [requestOpen]
  unfold step stepListed
  rcases hp : (replenish s).pending with _ | ⟨r, rest⟩
  · exact .inl ⟨rfl, by simp⟩
  · simp only [hopen]
    by_cases ho : requestOpen s r.act = true
    · rw [if_pos ho]
      refine .inr ⟨r, rest, rfl, ho, ?_⟩
      by_cases ha : r.after ≠ 0 ∧ ownEnabled (replenish s) = true
      · exact .inl ⟨ha.1, ha.2, if_pos ha⟩
      · refine .inr ⟨?_, if_neg ha⟩
        rcases Nat.eq_zero_or_pos r.after with h | h
        · exact .inl h
        · exact .inr (Bool.not_eq_true _ ▸ fun e => ha ⟨Nat.pos_iff_ne_zero.mp h, e⟩)
    · rw [if_neg ho]
      exact .inl ⟨rfl, fun r' rest' e => by cases e; exact Bool.not_eq_true _ ▸ ho⟩

end Sys2Proof.Machine
end

