-- ==== Sys2Proof/Tests/Slice0.lean ====
section
/-! SUPPORT. The model's own tests: the well-formedness check, decoding of words written out from the spec, one
or two vectors of 95_test_vectors.md per command, and a witness for the hypotheses of every obligation. -/
namespace Sys2Proof.Tests
open Sys2Proof.Machine Sys2Proof.Statements

/- One theorem after the other: each waits for the kernel, and many waiting at once need a thread each. -/
set_option Elab.async false

/-! ## Small states -/

/-- The reset state with N LEDs and K transform entries in use. -/
def leds (n k : Nat) : State :=
  { State.reset with cfg := { ConfigRegs.reset with ledCount := BitVec.ofNat 17 n, xformCount := BitVec.ofNat 7 k } }

/-- One LED, no transforms, and the sequencer at a place. -/
def running (p : SeqPos) : State := { leds 1 0 with pos := p }

/-- With words of the transform table written: (entry, word, value). -/
def withXf (ws : List (Nat × Nat × Word)) (s : State) : State :=
  { s with mem := ws.foldl (fun m w => writeWord m (xfAddr w.1 w.2.1) w.2.2) s.mem }

/-- With OUTBUF[0]. -/
def withOut (c : Rgb8) (s : State) : State := { s with mem := writeOut s.mem 0 c }

/-- With the operands an instruction reads. -/
def withOperands (o : OperandRegs) (s : State) : State := { s with opnd := o }

/-- With the answers of the collaborators. -/
def answering (a : Answers) (s : State) : State := { s with answers := a }

/-- With the transport's answers. -/
def sending (ws : List WriteAnswer) (s : State) : State := answering { Answers.none with writes := ws } s

/-- With the time source's answers. -/
def atTimes (ts : List Nanos) (s : State) : State := answering { Answers.none with times := ts } s

def rgb (r g b : Byte) : Rgb8 := { r := r, g := g, b := b }

/-- A view of the state after an outcome, if it is a next state. -/
def after {α : Type} (o : Host.Outcome State Fault Refusal) (view : State → α) : Option α :=
  match o with
  | .next t => some (view t)
  | .fault _ => none
  | .refused _ => none

/-- The state after an outcome, if it is a next state. -/
abbrev nextState (o : Host.Outcome State Fault Refusal) : Option State := after o (fun t => t)

theorem next_of_nextState {o : Host.Outcome State Fault Refusal} {t : State} (h : nextState o = some t) :
    o = .next t := by
  cases o with
  | next u => exact congrArg _ (Option.some.inj h)
  | fault f => cases f
  | refused r => cases h

/-- The refusal of an outcome, if it is one. -/
def refusal (o : Host.Outcome State Fault Refusal) : Option Refusal :=
  match o with
  | .next _ => none
  | .fault _ => none
  | .refused r => some r

/-! ## Well-formedness -/

theorem test_index_in_range_is_wellformed : (Instr.chan 65535).WellFormed := by decide
theorem test_index_too_large_is_refused : ¬ (Instr.nop 65536).WellFormed := by decide

/-! ## Decoding: bits [31:24] RSV, [23:8] IDX, [7:0] OP, written out from 30_encoding.md R90, R92, R98 -/

theorem test_decode_nop : decode 0b00000000_0000000000000000_00000000#32 = .ok (.nop 0) := by decide
theorem test_decode_rgb2hsv : decode 0b00000000_0000000000000000_00000001#32 = .ok (.rgb2hsv 0) := by decide
theorem test_decode_hsv2rgb : decode 0b00000000_0000000000000000_00000010#32 = .ok (.hsv2rgb 0) := by decide
theorem test_decode_chan : decode 0b00000000_0000000000000011_00000011#32 = .ok (.chan 3) := by decide
theorem test_decode_gain : decode 0b00000000_1000000000000001_00000100#32 = .ok (.gain 0x8001) := by decide
theorem test_decode_pipe : decode 0b00000000_0000000100101011_00000101#32 = .ok (.pipe 299) := by decide
theorem test_decode_smooth : decode 0b00000000_0000000000000000_00000110#32 = .ok (.smooth 0) := by decide
theorem test_decode_factor : decode 0b00000000_0000000000000000_00000111#32 = .ok (.factor 0) := by decide
theorem test_decode_hdr : decode 0b00000000_0000000000000000_00001000#32 = .ok (.hdr 0) := by decide
theorem test_decode_emit : decode 0b00000000_0000000000000000_00001001#32 = .ok (.emit 0) := by decide
theorem test_decode_start : decode 0b00000000_0000000000000000_00010000#32 = .ok (.start 0) := by decide
theorem test_decode_stop : decode 0b00000000_0000000000000000_00010001#32 = .ok (.stop 0) := by decide
theorem test_decode_reserved : decode 0b00000001_0000000000000000_00000001#32 = .error .reservedBits := by decide
theorem test_decode_illegal : decode 0b00000000_0000000000000000_00001010#32 = .error .illegalOpcode := by decide
theorem test_decode_short : decodeBytes [0x01#8, 0x00#8] = .error .wrongLength := by decide
theorem test_decode_bytes : decodeBytes [0x05#8, 0x2B#8, 0x01#8, 0x00#8] = .ok (.pipe 299) := by decide
theorem test_decode_table_word : decodeTableWord 32 0x00000303 = some (.chan 3) := by decide
theorem test_fetch_runs_the_word :
    nextState (step (State.reset.withFetchWord 32 0x0000000A)) = some (withStatusBit 13 State.reset) := by
  decide +kernel

/-! ## Commands: vectors of 95_test_vectors.md, sections L1 and L2 -/

/-- L2.9. -/
theorem test_nop : nextState (exec (.nop 7) (running .tick)) = some (running .tick) := by decide +kernel

/-- L2.1, (200, 100, 50). -/
theorem test_rgb2hsv : after (exec (.rgb2hsv 0) (withOperands { OperandRegs.reset with opaRgb := rgb 200 100 50 }
      State.reset)) (fun t => (t.res.resH, t.res.resS, t.res.resV)) =
    some (0x3D638E39, 0x3F400000, 0x3F48C8C9) := by decide +kernel

/-- L2.1, (255, 0, 1): a negative h6 wraps by +1. -/
theorem test_rgb2hsv_wraps : after (exec (.rgb2hsv 0) (withOperands { OperandRegs.reset with opaRgb := rgb 255 0 1 }
    State.reset)) (fun t => t.res.resH) = some 0x3F7FD52A := by decide +kernel

/-- L2.2, sector 1. -/
theorem test_hsv2rgb : after (exec (.hsv2rgb 0) (withOperands { OperandRegs.reset with
      opaH := 0x3E800000, opaS := 0x3F000000, opaV := 0x3F4CCCCD } State.reset)) (fun t => t.res.resRgb) =
    some (rgb 153 204 102) := by decide +kernel

/-- L2.2, h = -0.25 with HUE_OOR = literal. -/
theorem test_hsv2rgb_negative_hue : after (exec (.hsv2rgb 0) (withOperands { OperandRegs.reset with
    opaH := 0xBE800000, opaS := 0x3F800000, opaV := 0x3F800000 } State.reset)) (fun t => t.res.resRgb) =
    some (rgb 0 0 255) := by decide +kernel

/-- The identity settings of the three channels of entry 0, with a red threshold. -/
def identityEntry (threshold : Word) : List (Nat × Nat × Word) :=
  [(0, 2, 0x3F800000), (0, 3, 0x3F800000), (0, 5, threshold), (0, 6, 0x3F800000), (0, 7, 0x3F800000)] ++
  [(0, 10, 0x3F800000), (0, 11, 0x3F800000)]

/-- L2.3: a red threshold of 0.5 turns (100, 200, 50) into (0, 200, 50). -/
theorem test_chan : after (exec (.chan 0) (withOperands { OperandRegs.reset with opaRgb := rgb 100 200 50 }
    (withXf (identityEntry 0x3F000000) State.reset))) (fun t => t.res.resRgb) =
    some (rgb 0 200 50) := by decide +kernel

/-- L2.3: chan 32 with K_MAX = 32. -/
theorem test_chan_index : nextState (exec (.chan 32) State.reset) = some (withStatusBit 17 State.reset) := by
  decide +kernel

/-- L2.4, the GAIN command. -/
theorem test_gain : after (exec (.gain 0) (withOperands { OperandRegs.reset with
      opaH := 0x3D638E39, opaS := 0x3F400000, opaV := 0x3F48C8C9 }
      (withXf [(0, 14, 0x3F800000), (0, 15, 0x3F000000)] State.reset)))
      (fun t => (t.res.resH, t.res.resS, t.res.resV)) =
    some (0x3D638E39, 0x3F400000, 0x3EC8C8C9) := by decide +kernel

/-- L2.4: 0 times infinity and a NaN operand both fall back to 1.0. -/
theorem test_gain_nan : after (exec (.gain 0) (withOperands { OperandRegs.reset with opaV := 0x7FC00000 }
      (withXf [(0, 14, 0x7F800000), (0, 15, 0x3F800000)] State.reset))) (fun t => (t.res.resS, t.res.resV)) =
    some (0x3F800000, 0x3F800000) := by decide +kernel

/-- L2.5: K = 2, XF[0] GainOnly (1, 0.5) on 0..0, XF[1] None on 1..1. -/
def pipeState : State :=
  withOperands { OperandRegs.reset with opaRgb := rgb 200 100 50 }
    (withXf [(0, 0, 2), (0, 14, 0x3F800000), (0, 15, 0x3F000000), (1, 1, 0x00010001)] (leds 2 2))

theorem test_pipe : after (exec (.pipe 0) pipeState) (fun t => t.res.resRgb) = some (rgb 100 50 25) := by
  decide +kernel

theorem test_pipe_uncovered : after (exec (.pipe 299) pipeState) (fun t => t.res.resRgb) =
    some (rgb 200 100 50) := by decide +kernel

/-- L2.6: policy linear, f = 0.5, from black toward (200, 100, 50). -/
theorem test_smooth : after (exec (.smooth 0) (withOperands { OperandRegs.reset with
      opaRgb := rgb 200 100 50, opaF := 0x3F000000 }
      { State.reset with cfg := { ConfigRegs.reset with policy := true } })) (fun t => t.res.resRgb) =
    some (rgb 100 50 25) := by decide +kernel

/-- L2.6: 101 toward 100 by 0.5 stays, policy linear truncating toward the previous value. -/
theorem test_smooth_truncates : after (exec (.smooth 0) (withOperands { OperandRegs.reset with
      opaRgb := rgb 100 101 0, opbRgb := rgb 101 100 0, opaF := 0x3F000000 }
      { State.reset with cfg := { ConfigRegs.reset with policy := true } })) (fun t => t.res.resRgb) =
    some (rgb 101 100 0) := by decide +kernel

/-- L2.6: 16 666 667 ns over 100 000 000 ns. -/
theorem test_factor : after (exec (.factor 0) (withOperands { OperandRegs.reset with opaDtLo := 16666667 }
    { State.reset with cfg := { ConfigRegs.reset with tcLo := 100000000 } })) (fun t => t.res.resF) =
    some 0x3E2AAAAB := by decide +kernel

/-- L2.6: 2^64 - 1 over 1. -/
theorem test_factor_large : after (exec (.factor 0) (withOperands { OperandRegs.reset with
      opaDtLo := 0xFFFFFFFF, opaDtHi := 0xFFFFFFFF }
    { State.reset with cfg := { ConfigRegs.reset with tcLo := 1 } })) (fun t => t.res.resF) =
    some 0x5F800000 := by decide +kernel

/-- L1.5 and L2.8, N = 300. -/
theorem test_hdr : after (exec (.hdr 0) (leds 300 0)) (fun t => (t.res.resHdr0, t.res.resHdr1)) =
    some (0x01616441, 0x7F2B) := by decide +kernel

/-- L2.8, N = 65536. -/
theorem test_hdr_largest : after (exec (.hdr 0) (leds 65536 0)) (fun t => (t.res.resHdr0, t.res.resHdr1)) =
    some (0xFF616441, 0x55FF) := by decide +kernel

/-- L2.8, EMIT with N = 1 and Ok(6), Ok(3). -/
theorem test_emit : after (exec (.emit 0) (withOut (rgb 200 100 50) (sending [.ok 6, .ok 3] (leds 1 0))))
      (fun t => (t.wire, t.cnt.framesSent)) =
    some ([0x41, 0x64, 0x61, 0x00, 0x00, 0x55, 0xC8, 0x64, 0x32], 1) := by decide +kernel

/-- L2.8, Ok(6), then Err with the whole payload on the wire: a dropped frame. -/
theorem test_emit_failed : after (exec (.emit 0) (withOut (rgb 200 100 50) (sending [.ok 6, .err 3] (leds 1 0))))
      (fun t => (t.wire.length, t.sticky, t.cnt.framesSent, t.cnt.framesDropped)) =
    some (9, 0b0000000100, 0, 1) := by decide +kernel

/-- 46_control.md R241: the output buffer is cleared, and the sequencer is at S0. -/
theorem test_start : after (exec (.start 0) (withOut (rgb 200 100 50) (atTimes [5] (leds 1 0))))
      (fun t => (t.mem, t.pos, t.gov.rswStart)) = some ([], .boundary, 5) := by decide +kernel

/-- L2.9: N = 1, K = 1, XF[0] range 0..1. -/
theorem test_start_refused :
    nextState (exec (.start 0) (withXf [(0, 1, 0x00010000)] (leds 1 1))) =
      some (withStatusBit 12 (withXf [(0, 1, 0x00010000)] (leds 1 1))) := by decide +kernel

/-- L2.9. -/
theorem test_stop : nextState (exec (.stop 0) (running .tick)) = some { running .tick with stopPend := true } := by
  decide +kernel

/-! ## Host accesses and the sequencer: L2.9 and L2.7 -/

theorem test_status_write_clears :
    after (hostWrite 0x00008#20 4 0xFFFFFFFF#32 { running .tick with sticky := 0b0000110000 }) statusWord =
      some 1 := by decide +kernel

theorem test_reserved_bits_dropped :
    after (hostWrite 0x00080#20 4 0xFF123456#32 (running .tick)) (fun t => (hostRead 0x00080#20 4 t).readData) =
      some 0x00123456 := by decide +kernel

theorem test_misaligned_read : hostRead 0x00002#20 4 State.reset = withStatusBit 16 State.reset := by decide +kernel

/-- L2.7, the tick. -/
theorem test_tick : after (ownStep (atTimes [50000000] { running .tick with
      cfg := { (leds 1 0).cfg with tcLo := 100000000 } }))
      (fun t => (t.cnt.lastDtLo, t.cnt.lastFactor, t.gov.rswStart)) =
    some (50000000, 0x3F000000, 50000000) := by decide +kernel

/-- L2.7, the pace sleep: REFRESH = 50, a reading of 10 after a tick at 0. -/
theorem test_pace : after (ownStep (atTimes [10] { running .pace with
      cfg := { (leds 1 0).cfg with refreshLo := 50 } })) (fun t => t.pos) = some (.paceSleep 40) := by
  decide +kernel

/-! ## Witnesses: for each obligation with hypotheses, a state and operands that meet them, clause by clause -/

theorem witness_DecodeOfEncodeIsIdentity : (Instr.pipe 65535).WellFormed := by decide

theorem witness_EncodeOfDecodeIsIdentity : decode 0x00FFFF11#32 = .ok (.stop 65535) := by decide

/-- An illegal word of each kind, and a legal one. -/
theorem witness_IllegalWordsRaiseOnlyTheirEvent :
    (0x01000000#32).extractLsb' 24 8 ≠ 0 ∧
    ((0x00000012#32).extractLsb' 0 8).toNat ∉ [0, 1, 2, 3, 4, 5, 6, 7, 8, 9, 0x10, 0x11] ∧
    ¬ ((0x00FFFF09#32).extractLsb' 24 8 ≠ 0 ∨
      ((0x00FFFF09#32).extractLsb' 0 8).toNat ∉ [0, 1, 2, 3, 4, 5, 6, 7, 8, 9, 0x10, 0x11]) := by decide

/-- A queue of one request. -/
def queued (n : Nat) (act : HostAction) (s : State) : State := { s with pending := [{ after := n, act := act }] }

theorem witness_StepRunsDecodedCommand :
    let s := queued 0 (.write 0x0000C#20 4 0x00000303#32) State.reset
    decode 0x00000303#32 = .ok (.chan 3) ∧ s.cmdWait = none ∧
    s.pending = [{ after := 0, act := .write 0x0000C#20 4 0x00000303#32 }] := by decide

/-- No request; a read behind a waiting CMD write; a reset in the same state; a request with no step before
it; one with a step before it, of a block that has one enabled; a host that polls for ever beside one. -/
theorem witness_StepInterleavesHostAndBlock :
    (running .boundary).pending = [] ∧
    (let s := queued 0 (.read 0 4) { State.reset with cmdWait := some .emitHeader }
     s.pending = [{ after := 0, act := .read 0 4 }] ∧ s.cmdWait ≠ none ∧ isAccess (.read 0 4) = true) ∧
    (let s := queued 0 (.reset 0 Answers.none) { State.reset with cmdWait := some .emitHeader }
     s.pending = [{ after := 0, act := .reset 0 Answers.none }] ∧ isAccess (.reset 0 Answers.none) = false) ∧
    (queued 0 (.read 0 4) (running .boundary)).cmdWait = none ∧
    ownEnabled (queued 1 (.read 0 4) State.reset) = false ∧
    ownEnabled (queued 1 (.read 0 4) (running .boundary)) = true ∧
    (let s := { running .boundary with later := .polls [{ after := 0, act := .read 8 4 }] }
     s.cmdWait = none ∧ s.pending = [] ∧ ownEnabled s = true) := by decide +kernel

/-- R348: a host that reads STATUS for ever keeps a running block where it is; one that leaves it a step in each
round does not; and answers come in a step of their own. -/
theorem test_polling_host :
    after (stepsFrom 3 { running .boundary with later := .polls [{ after := 0, act := .read 8 4 }] })
      (fun t => (t.pos, t.readData)) = some (.boundary, 1) ∧
    after (step { running .boundary with later := .polls [{ after := 1, act := .read 8 4 }] })
      (fun t => t.pos) = some .tick ∧
    after (step (queued 0 (.answer { Answers.none with times := [7] }) State.reset))
      (fun t => t.answers.times) = some [7] := by decide +kernel

theorem witness_AcceptanceRefusals :
    (running .tick).pos ≠ .idle ∧ (∀ n, Instr.chan 40 ≠ .nop n) ∧ (∀ n, Instr.chan 40 ≠ .stop n) ∧
    State.reset.pos = .idle ∧ State.reset.params.kMax ≤ 32 :=
  ⟨by decide, fun _ h => Instr.noConfusion h, fun _ h => Instr.noConfusion h, rfl, by decide⟩

theorem witness_RefusedConfigurationsRaiseOnlyTheirEvent :
    (leds 0 0).pos = .idle ∧ (leds 0 0).cfg.ledCount.toNat = 0 ∧
    (leds 65537 0).pos = .idle ∧ (leds 65537 0).params.nMax < (leds 65537 0).cfg.ledCount.toNat ∧
    (leds 1 33).pos = .idle ∧ configValid (leds 1 33) = false := by decide +kernel

theorem witness_NopAndStopInEveryState :
    0x00FFFF00#32 &&& 0xFF0000FF#32 = 0x00000000#32 ∧ State.reset.pos = .idle ∧ (running .tick).pos ≠ .idle := by
  decide

theorem witness_Rgb2hsvResult : State.reset.pos = .idle := rfl

theorem witness_Hsv2rgbResult :
    let s (h sat : Word) := withOperands { OperandRegs.reset with opaH := h, opaS := sat } State.reset
    (s 0x7FC00000 0x80000000).pos = .idle ∧ (s 0x7FC00000 0x80000000).opnd.opaS &&& 0x7FFFFFFF#32 = 0 ∧
    (s 0x7FC00000 0x00000001).opnd.opaS &&& 0x7FFFFFFF#32 ≠ 0 ∧ (s 0x7FC00000 0x00000001).params.hueOor = .literal ∧
    (s 0x3F7FFFFF 0x7FC00000).opnd.opaS &&& 0x7FFFFFFF#32 ≠ 0 ∧ hueInRange 0x3F7FFFFF = true := by decide +kernel

theorem witness_Hsv2rgbDrawnResult :
    let s := withOperands { OperandRegs.reset with opaH := 0x3F800000, opaS := 0x3F800000 }
      { State.reset with params := { Params.reference with hueOor := .unspecified } }
    s.pos = .idle ∧ s.opnd.opaS &&& 0x7FFFFFFF#32 ≠ 0 ∧ s.params.hueOor = .unspecified ∧
    hueInRange s.opnd.opaH = false := by decide +kernel

theorem witness_ChanResult : State.reset.pos = .idle ∧ 31 < State.reset.params.kMax := by decide
theorem witness_GainResult : State.reset.pos = .idle ∧ 0 < State.reset.params.kMax := by decide
theorem witness_PipeResult : pipeState.pos = .idle := rfl
theorem witness_SmoothResult : State.reset.pos = .idle := rfl
theorem witness_FactorResult : State.reset.pos = .idle := rfl

theorem witness_HdrResult :
    (leds 1 0).pos = .idle ∧ (leds 1 0).params.valid ∧ (leds 1 0).cfg.ledCount.toNat = 1 ∧
    (leds 65536 0).cfg.ledCount.toNat = (leds 65536 0).params.nMax := by decide

theorem witness_EmitSendsWholeFrame :
    let s := sending [.ok 6, .ok 196608] (leds 65536 0)
    s.pos = .idle ∧ s.cmdWait = none ∧ 1 ≤ ledN s ∧ ledN s ≤ s.params.nMax ∧
    s.answers.writes = [.ok 6, .ok (3 * ledN s)] := by decide

/-- A short and a failed header write; a short and a failed payload write, at the boundary values. -/
theorem witness_EmitDropsShortOrFailedFrames :
    (leds 1 0).pos = .idle ∧ (leds 1 0).cmdWait = none ∧ 1 ≤ ledN (leds 1 0) ∧ ledN (leds 1 0) ≤ (leds 1 0).params.nMax ∧
    (sending [.ok 5] (leds 1 0)).answers.writes = [.ok 5] ∧ 5 < 6 ∧
    (sending [.err 6] (leds 1 0)).answers.writes = [.err 6] ∧
    (sending [.ok 6, .ok 2] (leds 1 0)).answers.writes = [.ok 6, .ok 2] ∧ 2 < 3 * ledN (leds 1 0) ∧
    (sending [.ok 6, .err 3] (leds 1 0)).answers.writes = [.ok 6, .err 3] ∧ 3 ≤ 3 * ledN (leds 1 0) := by decide

theorem witness_PayloadIsTheOutputBuffer : (0 < 1 ∧ 0 < 3) ∧ (65535 < 65536 ∧ 2 < 3) := by decide

/-- A Both entry that START accepts: gamma, whitelevel and gains 1.0, blacklevel 0.0. -/
def bothEntry : State :=
  withXf ([(0, 0, 3), (0, 14, 0x3F800000), (0, 15, 0x3F800000)] ++ identityEntry 0) (leds 1 1)

theorem witness_StartCheckIsTheRule : configValid bothEntry = true ∧ 0 < xformK bothEntry := by decide +kernel

theorem witness_StartBeginsRun :
    let s := atTimes [7] bothEntry
    s.pos = .idle ∧ s.cmdWait = none ∧ configValid s = true ∧ s.answers.times = [7] := by decide +kernel

theorem witness_UnansweredCommandWaits :
    let s := leds 1 0
    s.pos = .idle ∧ configValid s = true ∧ s.answers.times = [] ∧ 1 ≤ ledN s ∧ ledN s ≤ s.params.nMax ∧
    s.answers.writes = [] ∧ (sending [.ok 6] s).pos = .idle ∧ (sending [.ok 6] s).answers.writes = [.ok 6] := by
  decide +kernel

theorem f32Value_one : f32Value f32One = 1 := by
  rw [f32Value, show f32Int f32One = 2 ^ 149 by decide +kernel]; norm_num

theorem witness_ArithmeticIsCorrectlyRounded :
    isFinite 0x7F7FFFFF = true ∧ isFinite f32One = true ∧ f32Value f32One ≠ 0 ∧
    isZero 0x80000000 = true ∧ isInf 0xFF800000 = true ∧ isZero f32One = false ∧ isNaN 0x7F800001 = true :=
  ⟨by decide, by decide, by rw [f32Value_one]; norm_num, by decide, by decide, by decide, by decide⟩

/-- NaN; 255.0 itself; -0.0; the number below 255.0. -/
theorem witness_ToByteTruncatesAndSaturates :
    isNaN 0x7FC00000 = true ∧ (isNaN 0x437F0000 = false ∧ flt 0x437F0000 0x437F0000 = false) ∧
    (isNaN 0x80000000 = false ∧ flt f32Zero 0x80000000 = false) ∧
    (flt f32Zero 0x437EFFFF = true ∧ flt 0x437EFFFF 0x437F0000 = true) := by decide

theorem witness_SectorOfHueInRange :
    hueInRange 0x3F7FFFFF = true ∧ hueInRange 0 = true ∧ hueInRange 0x80000000 = true := by decide

theorem witness_PowfHasItsFourProperties :
    inUnit f32One = true ∧ inUnit f32Zero = true ∧ flt f32Zero 0x00000001 = true := by decide

theorem witness_GainNeverExceedsOne :
    inUnit f32One = true ∧ isNaN 0x7F800000 = false ∧ flt 0x7F800000 f32Zero = false ∧
    flt 0x80000000 f32Zero = false := by decide

/-- The four variants. -/
theorem witness_FoldStepByVariant :
    let s := withXf [(0, 0, 3), (1, 0, 1), (2, 0, 2)] (leds 1 4)
    let variant (k : Nat) := ((xfWord s k 0).getLsbD 0, (xfWord s k 0).getLsbD 1)
    variant 0 = (true, true) ∧ variant 1 = (true, false) ∧ variant 2 = (false, true) ∧ variant 3 = (false, false) := by
  decide +kernel

/-- A None entry that covers LED 1; and a Both, a ChannelOnly and a GainOnly entry with the same settings. -/
theorem witness_PipelineProperties :
    (pairList pipeState 1 = [1] ∧
      ∀ k ∈ pairList pipeState 1, (xfWord pipeState k 0).getLsbD 0 = false ∧ (xfWord pipeState k 0).getLsbD 1 = false) ∧
    (let s := withXf [(0, 0, 3), (1, 0, 1), (2, 0, 2)] (leds 1 3)
     xfHasChan s 0 = true ∧ xfHasGain s 0 = true ∧ xfHasChan s 1 = true ∧ xfHasGain s 1 = false ∧
     xfHasChan s 2 = false ∧ xfHasGain s 2 = true ∧ xfChannel s 1 = xfChannel s 0 ∧ xfGain s 2 = xfGain s 0) := by
  decide +kernel

theorem witness_LinearSmoothingProperties :
    AtLeastOne f32One ∧ isZero 0x80000000 = true ∧ (254#8).toNat + 1 = (255#8).toNat :=
  ⟨⟨by decide, by decide⟩, by decide, by decide⟩

/-- N = 300: bytes 3, 4 and 5 of L1.5. -/
theorem test_header : header 300 = [0x41, 0x64, 0x61, 0x01, 0x2B, 0x7F] := by decide

theorem witness_HeaderChecksumAndCountAreRecoverable : (1 ≤ 1 ∧ 1 ≤ 65536) ∧ (1 ≤ 65536 ∧ 65536 ≤ 65536) := by decide

/-- A place whose call has an answer, and one whose call has none. -/
theorem witness_SequencerWaitsForAnswers :
    (running .tick).cmdWait = none ∧ ownEnabled (running .tick) = false ∧
    ownEnabled (atTimes [0] (running .tick)) = true := by decide +kernel

theorem witness_BoundaryStep :
    (running .boundary).cmdWait = none ∧ (running .boundary).pos = .boundary ∧
    ({ running .boundary with stopPend := true } : State).stopPend = true ∧
    (running .boundary).stopPend = false ∧ (running .boundary).cfg.iterLimit = 0 ∧
    (let s : State := { running .boundary with
      cfg := { (leds 1 0).cfg with iterLimit := 1 }, cnt := { Counters.zero with iterCount := 1 } }
     s.stopPend = false ∧ s.cfg.iterLimit ≠ 0 ∧ s.cnt.iterCount = s.cfg.iterLimit) := by decide

theorem witness_TickStep :
    let s := atTimes [0xFFFFFFFFFFFFFFFF, 0] (running .tick)
    s.cmdWait = none ∧ s.pos = .tick ∧ s.answers.times = [0xFFFFFFFFFFFFFFFF, 0] := by decide

theorem witness_CaptureSteps :
    (running .capCheck).cmdWait = none ∧ (running .capCheck).pos = .capCheck ∧
    (running .capCheck).gov.capValid = false ∧
    (let s := atTimes [100] { running .capCheck with gov := { Governor.reset with capValid := true } }
     s.pos = .capCheck ∧ s.gov.capValid = true ∧ s.answers.times = [100]) ∧
    (let s := answering { Answers.none with captures := [false] } (running .capture)
     s.pos = .capture ∧ s.answers.captures = [false]) ∧
    (let s := atTimes [777] (running .captured)
     s.pos = .captured ∧ s.answers.times = [777]) := by decide

theorem witness_CaptureFailedSteps :
    (running .capFail).cmdWait = none ∧ (running .capFail).pos = .capFail ∧
    (let s := answering { Answers.none with sleeps := 1 } (running .backoffSleep)
     s.pos = .backoffSleep ∧ s.answers.sleeps = 0 + 1) ∧
    (let s := answering { Answers.none with reinits := 1 } (running .reinit)
     s.pos = .reinit ∧ s.answers.reinits = 0 + 1) := by decide

theorem witness_StoredFrameSteps :
    (running .frame).cmdWait = none ∧
    (let s := answering { Answers.none with frames := [none] } (running .frame)
     s.pos = .frame ∧ s.answers.frames = [none]) ∧
    (let s := answering { Answers.none with frames := [some 1] } (running .frame)
     s.pos = .frame ∧ s.answers.frames = [some 1]) ∧
    (let s := answering { Answers.none with geometries := [(640, 480)] } (running .geometry)
     s.pos = .geometry ∧ s.answers.geometries = [(640, 480)]) := by decide

theorem witness_LedStep :
    let s := answering { Answers.none with averages := [rgb 200 100 50] } (running .led)
    s.cmdWait = none ∧ s.pos = .led ∧ s.answers.averages = [rgb 200 100 50] := by decide

/-- Both places, each with an exact, a short and a failed write at the boundary values. -/
theorem witness_EmissionSteps :
    (sending [.ok 6] (running .emitHeader)).cmdWait = none ∧
    (sending [.ok 6] (running .emitHeader)).answers.writes = [.ok 6] ∧
    (sending [.ok 6] (running .emitHeader)).pos = .emitHeader ∧ 5 < 6 ∧ 6 ≤ 6 ∧
    (let s := sending [.ok 3] (running .emitPayload)
     s.cmdWait = none ∧ s.pos = .emitPayload ∧ s.answers.writes = [.ok (3 * ledN s)] ∧ 2 < 3 * ledN s ∧
     3 ≤ 3 * ledN s) := by decide

theorem witness_PaceSteps :
    (let s := atTimes [50] (running .pace)
     s.cmdWait = none ∧ s.pos = .pace ∧ s.answers.times = [50]) ∧
    (let s := answering { Answers.none with sleeps := 1 } (running (.paceSleep 40))
     s.pos = .paceSleep 40 ∧ s.answers.sleeps = 0 + 1) ∧
    (running .finish).pos = .finish := by decide

/-- A width of 2; address 2; the gap at 0x01C; the first address after the transform table; one below the output
buffer; the first one after it. -/
theorem witness_BusErrorsRaiseOnlyTheirEvent :
    State.reset.params.valid ∧ 2 ≠ 4 ∧ (0x00002#20).toNat % 4 ≠ 0 ∧
    (∀ n ∈ [0x0001C, 0x01800, 0x3FFFC, 0x80000], (BitVec.ofNat 20 n).toNat = n ∧ (∀ p ∈ resetTable, n ≠ p.1) ∧
      ¬ (0x1000 ≤ n ∧ n < 0x1000 + 64 * State.reset.params.kMax) ∧
      ¬ (0x40000 ≤ n ∧ n < 0x40000 + 4 * State.reset.params.nMax)) ∧
    65535 < State.reset.params.nMax := by decide +kernel

theorem witness_BusyConfigWritesRaiseOnlyTheirEvent :
    (running .tick).pos ≠ .idle ∧ (running .tick).params.valid ∧ 31 < (running .tick).params.kMax ∧ 15 < 16 := by decide

theorem witness_RegisterReadsWhatWasWritten :
    Reg.opaH ∈ rwAnyRegs ∧ (Reg.ledCount ∈ rwIdleRegs ∧ State.reset.pos = .idle) := by decide

theorem witness_TableWordReadsWhatWasWritten :
    State.reset.pos = .idle ∧ State.reset.params.valid ∧ 31 < State.reset.params.kMax ∧ 15 < 16 ∧ 0 < 16 := by decide

theorem witness_StatusReadsAndClears : 8 ≤ 8 ∧ 8 ≤ 17 ∧ 17 ≤ 17 := by decide

/-- The first and the last word of both windows, and a register at either end of the table. -/
theorem witness_ReadsHaveNoSideEffect :
    (0x000, 0x53470001#32) ∈ contentsOf State.reset ∧ (0x0B8, 0x00000000#32) ∈ contentsOf State.reset ∧
    State.reset.params.valid ∧
    ∀ n ∈ [0x01000, 0x017FC, 0x40000, 0x7FFFC], (BitVec.ofNat 20 n).toNat = n ∧ n % 4 = 0 ∧
      ((0x1000 ≤ n ∧ n < 0x1000 + 64 * State.reset.params.kMax) ∨
        (0x40000 ≤ n ∧ n < 0x40000 + 4 * State.reset.params.nMax)) := by decide +kernel

/-- A reset in either write, and one in none; and an instance that is not the reference one. -/
theorem witness_ResetLeavesTheTabledValues :
    InHeaderWrite (running .emitHeader) ∧ InPayloadWrite (running .emitPayload) ∧
    ¬ InHeaderWrite (running .tick) ∧ ¬ InPayloadWrite (running .tick) := by
  simp [InHeaderWrite, InPayloadWrite, running, leds, State.reset]

theorem witness_InvariantHoldsAtReset : Params.valid { nMax := 1, kMax := 64, hueOor := .unspecified } := by decide

/-- 70_reset_and_hazards.md R341: two bytes of the payload write that a reset abandons are on the wire. -/
theorem test_reset_in_a_write :
    after (perform (.reset 2 Answers.none) (withOut (rgb 200 100 50) (running .emitPayload)))
      (fun t => (t.wire, t.pos, t.mem)) = some ([0xC8, 0x64], .idle, []) := by decide +kernel

/-- A running state with the invariant, whose step is a next state. -/
theorem witness_EveryStepKeepsTheInvariant :
    Inv (running .boundary) ∧ step (running .boundary) = .next (running .tick) :=
  ⟨{ params := by decide
     canonical := by decide
     mapped := fun c hc => by cases hc
     reserved := ⟨fun k _ => by simp [xfWord, readWord, readByte, running, leds, State.reset], fun i => rfl⟩
     running := fun _ => by decide +kernel
     ledBound := fun h => by cases h
     stopped := fun _ => rfl
     waiting := trivial }, next_of_nextState (by decide +kernel)⟩

/-- Nothing pending; a read at the head with a reset behind it; a reset at the head with an own step before it. -/
theorem witness_RunningNeverChangesConfiguration :
    (running .boundary).pos ≠ .idle ∧ (running .boundary).pending = [] ∧
    step (running .boundary) = .next (running .tick) ∧ isReset (.read 0 4) = false ∧
    (let later : Request := { after := 0, act := .reset 0 Answers.none }
     after (step { running .boundary with pending := [{ after := 0, act := .read 0 4 }, later] })
       (fun t => (t.readData, t.pending)) = some (0x53470001, [later])) ∧
    ownEnabled (queued 1 (.reset 0 Answers.none) (running .boundary)) = true ∧
    after (step (queued 1 (.reset 0 Answers.none) (running .boundary))) (fun t => t.pos) = some .tick :=
  ⟨by decide, by decide, next_of_nextState (by decide +kernel), rfl, by decide +kernel, by decide +kernel,
   by decide +kernel⟩

theorem witness_WireOnlyGrows :
    after (step (sending [.ok 6] (running .emitHeader))) (fun t => t.wire.length) = some 6 := by decide +kernel

theorem witness_AtMostOneEventPerStep :
    after (step (sending [.ok 5] (running .emitHeader))) (fun t => t.sticky) = some 2 := by decide +kernel

theorem witness_OnlyTransportOverreportStops :
    refusal (step (sending [.ok 7] (running .emitHeader))) = some .transportOverreport ∧
    refusal (step (sending [.ok 4] (running .emitPayload))) = some .transportOverreport := by decide +kernel

/-- Each wait with its answers: START; EMIT at the header with one and with two answers; EMIT at the payload. -/
theorem witness_WaitingCommandsComplete :
    (let s := { atTimes [5] (leds 1 0) with cmdWait := some .startClock }
     s.cmdWait = some .startClock ∧ s.answers.times = [5]) ∧
    (let s := { sending [.ok 6] (leds 1 0) with cmdWait := some .emitHeader }
     s.cmdWait = some .emitHeader ∧ s.answers.writes = [.ok 6]) ∧
    (let s := { sending [.ok 6, .ok 3] (leds 1 0) with cmdWait := some .emitHeader }
     s.answers.writes = [.ok 6, .ok (3 * ledN s)] ∧ 2 < 3 * ledN s ∧ 5 < 6) ∧
    (let s := { sending [.err 3] (leds 1 0) with cmdWait := some .emitPayload }
     s.cmdWait = some .emitPayload ∧ s.answers.writes = [.err 3] ∧ 3 ≤ 3 * ledN s) := by decide

end Sys2Proof.Tests
end

/-! ## Binary32 rounding: magnitude numbers and the units they stand for

Everything the model rounds goes through `roundUnits`, so one fact carries all the operations: its result is
the nearest magnitude number, cut off at infinity. Signs are kept apart from magnitudes (`withSign`). -/
namespace Sys2Proof.Machine

/-! ### Magnitude numbers count up with their units -/

/-- E · 2^23 + k stands for k · 2^E units, through the carry into the next exponent (k = 2^24). -/
theorem unitsOf_exp_add (e k : Nat) (hnormal : e = 0 ∨ 2 ^ 23 ≤ k) (hk : k ≤ 2 ^ 24) :
    unitsOf (e * 2 ^ 23 + k) = k * 2 ^ e := by
  obtain hlow | hbits | rfl : k < 2 ^ 23 ∨ (2 ^ 23 ≤ k ∧ k < 2 ^ 24) ∨ k = 2 ^ 24 := by omega
  · obtain rfl : e = 0 := by omega
    rw [Nat.zero_mul, Nat.zero_add, unitsOf, if_pos (by omega), pow_zero, Nat.mul_one]
  · have hexp : (e * 2 ^ 23 + k) / 2 ^ 23 = e + 1 := by omega
    have hfrac : 2 ^ 23 + (e * 2 ^ 23 + k) % 2 ^ 23 = k := by omega
    rw [unitsOf, hexp, hfrac]; simp
  · have hexp : (e * 2 ^ 23 + 2 ^ 24) / 2 ^ 23 = e + 2 := by omega
    have hfrac : 2 ^ 23 + (e * 2 ^ 23 + 2 ^ 24) % 2 ^ 23 = 2 ^ 23 := by omega
    rw [unitsOf, hexp, hfrac, if_neg (by omega), Nat.add_sub_assoc (by omega), pow_add]; ring

/-- One magnitude number further is one step of the exponent's size. -/
theorem unitsOf_succ (mag : Nat) : unitsOf (mag + 1) = unitsOf mag + 2 ^ (mag / 2 ^ 23 - 1) := by
  have hsplit : ∃ e k, mag = e * 2 ^ 23 + k ∧ (e = 0 ∨ 2 ^ 23 ≤ k) ∧ k < 2 ^ 24 ∧ e = mag / 2 ^ 23 - 1 :=
    ⟨mag / 2 ^ 23 - 1, mag - (mag / 2 ^ 23 - 1) * 2 ^ 23, by omega, by omega, by omega, rfl⟩
  obtain ⟨e, k, hmag, hnormal, hk, he⟩ := hsplit
  rw [← he, hmag, unitsOf_exp_add e k hnormal hk.le, Nat.add_assoc,
    unitsOf_exp_add e (k + 1) (by omega) hk, Nat.succ_mul]

theorem unitsOf_strictMono : StrictMono unitsOf :=
  strictMono_nat_of_lt_succ fun mag => by
    rw [unitsOf_succ]; exact Nat.lt_add_of_pos_right (by positivity)

@[simp] theorem unitsOf_zero : unitsOf 0 = 0 := rfl

/-- Infinity's magnitude number continues the finite ones: it stands for 2^128. -/
theorem unitsOf_infMag : unitsOf infMag = 2 ^ 25 * 2 ^ 252 :=
  (unitsOf_exp_add 253 (2 ^ 24) (by omega) le_rfl).trans (by norm_num)

theorem unitsOf_greatest : unitsOf (infMag - 1) = (2 ^ 25 - 2) * 2 ^ 252 :=
  (unitsOf_exp_add 253 (2 ^ 24 - 1) (by omega) (by omega)).trans (by norm_num)

theorem unitsOf_cast_lt {a b : Nat} (h : a < b) : (unitsOf a : ℚ) < unitsOf b := by
  exact_mod_cast unitsOf_strictMono h

theorem unitsOf_cast_le {a b : Nat} (h : a ≤ b) : (unitsOf a : ℚ) ≤ unitsOf b := by
  exact_mod_cast unitsOf_strictMono.monotone h

/-! ### The nearest magnitude number -/

/-- c is the magnitude number nearest to x units among all numbers, were there no infinity; even in a tie. -/
def NearestMag (x : ℚ) (c : Nat) : Prop :=
  ∀ m : Nat, |(unitsOf c : ℚ) - x| ≤ |(unitsOf m : ℚ) - x| ∧
    (|(unitsOf c : ℚ) - x| = |(unitsOf m : ℚ) - x| → m ≠ c → c % 2 = 0)

section Nearest
variable {x : ℚ} {c : Nat}

/-- Rounding down: x is in the lower half of the gap above c. -/
theorem nearestMag_of_lower_half (hc : (unitsOf c : ℚ) ≤ x) (hhalf : x - unitsOf c ≤ unitsOf (c + 1) - x)
    (htie : x - unitsOf c = unitsOf (c + 1) - x → c % 2 = 0) : NearestMag x c := by
  intro m
  rw [abs_sub_comm, abs_of_nonneg (sub_nonneg.2 hc)]
  obtain hm | rfl | hm := lt_trichotomy m c
  · have hlt := unitsOf_cast_lt hm
    rw [abs_sub_comm, abs_of_nonneg (by linarith)]
    exact ⟨by linarith, fun heq => by linarith⟩
  · exact ⟨by rw [abs_sub_comm]; exact le_abs_self _, fun _ hne => absurd rfl hne⟩
  · have hle := unitsOf_cast_le (Nat.succ_le_of_lt hm)
    rw [abs_of_nonneg (by linarith)]
    exact ⟨by linarith, fun heq _ => htie (by linarith)⟩

/-- Rounding up: x is in the upper half of the gap above c. -/
theorem nearestMag_of_upper_half (hc : x ≤ (unitsOf (c + 1) : ℚ)) (hhalf : unitsOf (c + 1) - x ≤ x - unitsOf c)
    (htie : unitsOf (c + 1) - x = x - unitsOf c → (c + 1) % 2 = 0) : NearestMag x (c + 1) := by
  intro m
  rw [abs_of_nonneg (sub_nonneg.2 hc)]
  obtain hm | rfl | hm := lt_trichotomy m (c + 1)
  · have hle := unitsOf_cast_le (Nat.le_of_lt_succ hm)
    rw [abs_sub_comm, abs_of_nonneg (by linarith)]
    exact ⟨by linarith, fun heq _ => htie (by linarith)⟩
  · exact ⟨le_abs_self _, fun _ hne => absurd rfl hne⟩
  · have hlt := unitsOf_cast_lt hm
    rw [abs_of_nonneg (by linarith)]
    exact ⟨by linarith, fun heq => by linarith⟩

/-- Below the midpoint of the greatest finite number and 2^128 the nearest number is finite. -/
theorem NearestMag.lt_infMag (h : NearestMag x c) (hx : x < (2 ^ 25 - 1) * 2 ^ 252) : c < infMag := by
  by_contra hinf
  have hc := unitsOf_cast_le (Nat.le_of_not_lt hinf)
  have hnear := (h (infMag - 1)).1
  rw [unitsOf_infMag] at hc
  rw [unitsOf_greatest, abs_of_nonneg (by push_cast at hc; linarith), le_abs'] at hnear
  push_cast at hc hnear
  obtain hnear | hnear := hnear <;> linarith

/-- From that midpoint on it is not: at the midpoint itself the greatest finite number is odd. -/
theorem NearestMag.infMag_le (h : NearestMag x c) (hx : (2 ^ 25 - 1) * 2 ^ 252 ≤ x) : infMag ≤ c := by
  by_contra hfin
  have hc := unitsOf_cast_le (show c ≤ infMag - 1 by omega)
  obtain ⟨hnear, htie⟩ := h infMag
  rw [unitsOf_greatest] at hc
  rw [unitsOf_infMag] at hnear htie
  push_cast at hc hnear htie
  have hfar : |(unitsOf c : ℚ) - x| = x - unitsOf c := by
    rw [abs_sub_comm, abs_of_nonneg (by linarith)]
  rw [hfar] at hnear htie
  have hmid : (unitsOf c : ℚ) = (2 ^ 25 - 2) * 2 ^ 252 ∧ x = (2 ^ 25 - 1) * 2 ^ 252 := by
    obtain h | h := le_abs.1 hnear <;> constructor <;> linarith
  obtain ⟨hunits, hxmid⟩ := hmid
  obtain rfl : c = infMag - 1 := unitsOf_strictMono.injective <| Nat.cast_injective (R := ℚ) <| by
    rw [hunits, unitsOf_greatest]; norm_num
  exact absurd (htie (by rw [hunits, hxmid]; norm_num) (by decide)) (by decide)

end Nearest

/-! ### `roundUnits` finds it -/

/-- The bits that are dropped leave a quotient of 24 bits, or drop nothing. -/
theorem roundExp_spec (num den : Nat) :
    (roundExp num den = 0 ∨ 2 ^ 23 ≤ num / (den * 2 ^ roundExp num den)) ∧
    num / (den * 2 ^ roundExp num den) < 2 ^ 24 := by
  rw [← Nat.div_div_eq_div_mul, roundExp]
  generalize num / den = t
  have hlt : t < 2 ^ (t.log2 + 1) := Nat.lt_log2_self
  obtain hlow | hhigh : t.log2 ≤ 23 ∨ 23 < t.log2 := by omega
  · rw [Nat.sub_eq_zero_of_le hlow, pow_zero, Nat.div_one]
    exact ⟨.inl rfl, hlt.trans_le (Nat.pow_le_pow_right (by omega) (by omega))⟩
  · have hle : 2 ^ t.log2 ≤ t := Nat.log2_self_le (by rintro rfl; simp at hhigh)
    refine ⟨.inr ((Nat.le_div_iff_mul_le (by positivity)).2 ?_), (Nat.div_lt_iff_lt_mul (by positivity)).2 ?_⟩
    · rwa [← pow_add, Nat.add_sub_of_le hhigh.le]
    · rwa [← pow_add, show 24 + (t.log2 - 23) = t.log2 + 1 by omega]

/-- Where num lies in the gap from magnitude number E · 2^23 + q to the next, for num = q · d + r and d = den · 2^E:
r / den units above the one and (d - r) / den below the other. -/
theorem gap_of_quotient {num den e q r : Nat} (hden : 0 < den) (hnormal : e = 0 ∨ 2 ^ 23 ≤ q) (hbits : q < 2 ^ 24)
    (hnum : q * (den * 2 ^ e) + r = num) :
    (num : ℚ) / den - unitsOf (e * 2 ^ 23 + q) = r / den ∧
    (unitsOf (e * 2 ^ 23 + q + 1) : ℚ) - num / den = ((den * 2 ^ e : Nat) - r) / den := by
  have hpos : (0 : ℚ) < den := by exact_mod_cast hden
  rw [unitsOf_exp_add e q hnormal hbits.le, Nat.add_assoc, unitsOf_exp_add e (q + 1) (by omega) hbits, ← hnum]
  push_cast
  constructor <;> (field_simp; ring)

/-- `roundUnits` is the number nearest to num / den units, cut off at infinity (R15). -/
theorem roundUnits_nearest (num den : Nat) (hden : 0 < den) :
    ∃ c, roundUnits num den = min c infMag ∧ NearestMag (num / den) c := by
  obtain ⟨hnormal, hbits⟩ := roundExp_spec num den
  unfold roundUnits
  generalize roundExp num den = e at *
  dsimp only
  have hnum : num / (den * 2 ^ e) * (den * 2 ^ e) + num % (den * 2 ^ e) = num := Nat.div_add_mod' ..
  have hmod : num % (den * 2 ^ e) < den * 2 ^ e := Nat.mod_lt _ (by positivity)
  obtain ⟨hbelow, habove⟩ := gap_of_quotient hden hnormal hbits hnum
  have hpos : (0 : ℚ) < den := by exact_mod_cast hden
  generalize num / (den * 2 ^ e) = q at *
  generalize num % (den * 2 ^ e) = r at *
  generalize den * 2 ^ e = d at *
  refine ⟨_, rfl, ?_⟩
  split
  next hup =>
    refine nearestMag_of_upper_half (sub_nonneg.1 ?_) ?_ ?_
    all_goals rw [habove]
    · rw [← Nat.cast_sub hmod.le]; positivity
    · rw [hbelow, div_le_div_iff_of_pos_right hpos, sub_le_iff_le_add]; norm_cast; omega
    · rw [hbelow, div_left_inj' hpos.ne', sub_eq_iff_eq_add]; norm_cast; omega
  next hdown =>
    refine nearestMag_of_lower_half (sub_nonneg.1 ?_) ?_ ?_
    all_goals rw [Nat.add_zero, hbelow]
    · positivity
    · rw [habove, div_le_div_iff_of_pos_right hpos, le_sub_iff_add_le]; norm_cast; omega
    · rw [habove, div_left_inj' hpos.ne', eq_sub_iff_add_eq]; norm_cast; omega

section Rounding
open Sys2Proof.Statements

/-! ### Signs -/

/-- A magnitude with a sign. -/
def withSign (neg : Bool) (x : ℚ) : ℚ := if neg then -x else x

@[simp] theorem withSign_zero (neg : Bool) : withSign neg 0 = 0 := by cases neg <;> simp [withSign]

@[simp] theorem abs_withSign (neg : Bool) (x : ℚ) : |withSign neg x| = |x| := by cases neg <;> simp [withSign]

theorem withSign_eq_zero_iff (neg : Bool) (x : ℚ) : withSign neg x = 0 ↔ x = 0 := by
  rw [← abs_eq_zero, abs_withSign, abs_eq_zero]

theorem withSign_neg_iff {neg : Bool} {x : ℚ} (hx : 0 < x) : withSign neg x < 0 ↔ neg = true := by
  cases neg <;> simp [withSign, hx, hx.le]

theorem withSign_sub (neg : Bool) (x y : ℚ) : withSign neg x - withSign neg y = withSign neg (x - y) := by
  cases neg <;> simp [withSign]; ring

theorem withSign_mul (p q : Bool) (x y : ℚ) : withSign p x * withSign q y = withSign (p != q) (x * y) := by
  cases p <;> cases q <;> simp [withSign]

theorem withSign_div (p q : Bool) (x y : ℚ) : withSign p x / withSign q y = withSign (p != q) (x / y) := by
  cases p <;> cases q <;> simp [withSign, div_neg, neg_div]

theorem withSign_not (neg : Bool) (x : ℚ) : withSign (!neg) x = - withSign neg x := by cases neg <;> simp [withSign]

theorem withSign_natAbs_div (z : Int) (d : ℚ) : withSign (decide (z < 0)) (z.natAbs / d) = z / d := by
  obtain h | h := lt_or_ge z 0
  · simp [withSign, h, abs_of_neg h, neg_div]
  · simp [withSign, h.not_gt, abs_of_nonneg h]

/-! ### Packing and values -/

theorem f32Neg_f32Pack (neg : Bool) {mag : Nat} (h : mag < 2 ^ 31) : f32Neg (f32Pack neg mag) = neg := by
  cases neg <;> simp [f32Neg, f32Pack, BitVec.msb_eq_decide] <;> omega

theorem f32Mag_f32Pack (neg : Bool) {mag : Nat} (h : mag < 2 ^ 31) : f32Mag (f32Pack neg mag) = mag := by
  cases neg <;> simp [f32Mag, f32Pack] <;> omega

theorem f32Value_eq_withSign (a : F32) : f32Value a = withSign (f32Neg a) (f32Units a / 2 ^ 149) := by
  unfold f32Value f32Int withSign
  split <;> simp [neg_div]

theorem abs_f32Value (a : F32) : |f32Value a| = f32Units a / 2 ^ 149 := by
  rw [f32Value_eq_withSign, abs_withSign, abs_of_nonneg (by positivity)]

theorem isFinite_iff (a : F32) : isFinite a = true ↔ f32Mag a < infMag := decide_eq_true_iff

theorem isInf_iff (a : F32) : isInf a = true ↔ f32Mag a = infMag := beq_iff_eq

theorem isZero_iff (a : F32) : isZero a = true ↔ f32Mag a = 0 := beq_iff_eq

theorem not_special_of_isFinite {a : F32} (h : isFinite a = true) : isNaN a = false ∧ isInf a = false :=
  ⟨decide_eq_false ((isFinite_iff a).1 h).not_gt, beq_false_of_ne ((isFinite_iff a).1 h).ne⟩

theorem f32Units_eq_zero_iff (a : F32) : f32Units a = 0 ↔ f32Mag a = 0 :=
  unitsOf_strictMono.injective.eq_iff' unitsOf_zero

theorem f32Value_eq_zero_iff (a : F32) : f32Value a = 0 ↔ f32Mag a = 0 := by
  rw [← abs_eq_zero, abs_f32Value, div_eq_zero_iff, or_iff_left (by positivity), Nat.cast_eq_zero,
    f32Units_eq_zero_iff]

/-- Two numbers of one magnitude number are equal or opposite. -/
theorem f32Value_eq_or_neg {a b : F32} (h : f32Mag a = f32Mag b) :
    f32Value a = f32Value b ∨ f32Value a = - f32Value b :=
  abs_eq_abs.1 (by rw [abs_f32Value, abs_f32Value, f32Units, f32Units, h])

/-- The order of the magnitude numbers with their signs is the order of the values. -/
theorem f32Key_lt_iff (a b : F32) : f32Key a < f32Key b ↔ f32Int a < f32Int b := by
  have hab : f32Units a < f32Units b ↔ f32Mag a < f32Mag b := unitsOf_strictMono.lt_iff_lt
  have hba : f32Units b < f32Units a ↔ f32Mag b < f32Mag a := unitsOf_strictMono.lt_iff_lt
  have ha := f32Units_eq_zero_iff a
  have hb := f32Units_eq_zero_iff b
  unfold f32Key f32Int
  cases f32Neg a <;> cases f32Neg b <;> simp only [Bool.false_eq_true, if_true, if_false] <;> omega

theorem f32Mag_lt (a : F32) : f32Mag a < 2 ^ 31 := Nat.mod_lt _ (by decide)

@[simp] theorem f32Neg_fneg (a : F32) : f32Neg (fneg a) = !f32Neg a := f32Neg_f32Pack _ (f32Mag_lt a)

@[simp] theorem f32Mag_fneg (a : F32) : f32Mag (fneg a) = f32Mag a := f32Mag_f32Pack _ (f32Mag_lt a)

theorem f32Value_fneg (a : F32) : f32Value (fneg a) = - f32Value a := by
  rw [f32Value_eq_withSign, f32Value_eq_withSign a, f32Neg_fneg, withSign_not, f32Units, f32Units, f32Mag_fneg]

/-! ### One rounding -/

/-- The distance to a number of the same sign is that of the magnitudes. -/
theorem abs_f32Value_sub_withSign (c : F32) (x : ℚ) :
    |f32Value c - withSign (f32Neg c) (x / 2 ^ 149)| = |(f32Units c : ℚ) - x| / 2 ^ 149 := by
  rw [f32Value_eq_withSign, withSign_sub, abs_withSign, ← sub_div, abs_div,
    abs_of_pos (by positivity : (0 : ℚ) < 2 ^ 149)]

/-- The distance to a number of either sign is at least that. -/
theorem le_abs_f32Value_sub_withSign (m : F32) (neg : Bool) {x : ℚ} (hx : 0 ≤ x) :
    |(f32Units m : ℚ) - x| / 2 ^ 149 ≤ |f32Value m - withSign neg (x / 2 ^ 149)| := by
  have h := abs_abs_sub_abs_le_abs_sub (f32Value m) (withSign neg (x / 2 ^ 149))
  rwa [abs_f32Value, abs_withSign, abs_of_nonneg (by positivity : 0 ≤ x / 2 ^ 149), ← sub_div, abs_div,
    abs_of_pos (by positivity : (0 : ℚ) < 2 ^ 149)] at h

/-- Where a number and its opposite are equally near to y, the number or y is zero. -/
theorem eq_zero_of_opposite_equally_near {v y : ℚ} (h : |v - y| = |-v - y|) : v = 0 ∨ y = 0 := by
  obtain h | h := abs_eq_abs.1 h
  · exact .inl (by linarith)
  · exact .inr (by linarith)

/-- A number nearest to zero is zero. -/
theorem eq_zero_of_nearestMag_zero {n : Nat} (h : NearestMag 0 n) : n = 0 := by
  have hle := (h 0).1
  rw [unitsOf_zero, Nat.cast_zero, sub_zero, sub_zero, abs_zero, abs_nonpos_iff, Nat.cast_eq_zero] at hle
  exact unitsOf_strictMono.injective hle

/-- Attaching c's sign to a number that c's magnitude is nearest to: no finite number is nearer to the result,
and an equally near one of c's magnitude is the opposite of c, so that both are zero. -/
theorem nearest_of_nearestMag {x : ℚ} {c : F32} (hx : 0 ≤ x) (hnear : NearestMag x (f32Mag c)) (m : F32) :
    |f32Value c - withSign (f32Neg c) (x / 2 ^ 149)| ≤ |f32Value m - withSign (f32Neg c) (x / 2 ^ 149)| ∧
    (|f32Value c - withSign (f32Neg c) (x / 2 ^ 149)| = |f32Value m - withSign (f32Neg c) (x / 2 ^ 149)| →
      f32Value m ≠ f32Value c → f32Mag c % 2 = 0) := by
  obtain ⟨hle, htie⟩ := hnear (f32Mag m)
  have hfar := le_abs_f32Value_sub_withSign m (f32Neg c) hx
  have hdist := abs_f32Value_sub_withSign c x
  refine ⟨hdist ▸ (div_le_div_of_nonneg_right hle (by positivity)).trans hfar, fun heq hne => ?_⟩
  obtain hsame | hother := eq_or_ne (f32Mag m) (f32Mag c)
  · rw [(f32Value_eq_or_neg hsame).resolve_left hne] at heq
    obtain hc | hy := eq_zero_of_opposite_equally_near heq
    · rw [(f32Value_eq_zero_iff c).1 hc]
    · rw [withSign_eq_zero_iff, div_eq_zero_iff, or_iff_left (by positivity)] at hy
      subst hy
      rw [eq_zero_of_nearestMag_zero hnear]
  · rw [← heq, hdist, div_le_div_iff_of_pos_right (by positivity)] at hfar
    exact htie (le_antisymm hle hfar) hother

/-- Rounding a magnitude to nearest, cutting off at infinity and attaching the sign is rounding the signed
number. -/
theorem roundsTo_of_nearestMag {x : ℚ} {n : Nat} {c : F32} (hx : 0 ≤ x)
    (hnear : NearestMag x n) (hmag : f32Mag c = min n infMag) :
    RoundsTo (withSign (f32Neg c) (x / 2 ^ 149)) c := by
  unfold RoundsTo
  rw [abs_withSign, abs_of_nonneg (by positivity : 0 ≤ x / 2 ^ 149)]
  split
  next hsmall =>
    have hn : n < infMag := hnear.lt_infMag (by rw [div_lt_iff₀ (by positivity)] at hsmall; linarith)
    rw [min_eq_left hn.le] at hmag
    exact ⟨(isFinite_iff c).2 (hmag ▸ hn), fun m _ => nearest_of_nearestMag hx (hmag ▸ hnear) m⟩
  next hbig =>
    have hx' : (2 ^ 25 - 1) * 2 ^ 252 ≤ x := by
      rw [not_lt, le_div_iff₀ (by positivity)] at hbig; linarith
    rw [min_eq_right (hnear.infMag_le hx')] at hmag
    have hpos : 0 < x / 2 ^ 149 := div_pos (by linarith) (by positivity)
    exact ⟨(isInf_iff c).2 hmag, (withSign_neg_iff hpos).symm⟩

/-- The exact magnitude num / den units, rounded by the model and packed with its sign (R15). -/
theorem roundsTo_f32Pack (neg : Bool) (num den : Nat) (hden : 0 < den) :
    RoundsTo (withSign neg (num / den / 2 ^ 149)) (f32Pack neg (roundUnits num den)) := by
  obtain ⟨n, hround, hnear⟩ := roundUnits_nearest num den hden
  have hlt : roundUnits num den < 2 ^ 31 := by rw [hround]; exact (min_le_right _ _).trans_lt (by decide)
  have h := roundsTo_of_nearestMag (by positivity) hnear ((f32Mag_f32Pack neg hlt).trans hround)
  rwa [f32Neg_f32Pack neg hlt] at h

/-! ### The operations on finite operands -/

section Finite
variable {a b : F32} (ha : isFinite a = true) (hb : isFinite b = true)
include ha hb

theorem fadd_roundsTo : RoundsTo (f32Value a + f32Value b) (fadd a b) := by
  have hsum : f32Value a + f32Value b = ((f32Int a + f32Int b : Int) : ℚ) / 2 ^ 149 := by
    rw [f32Value, f32Value, ← add_div]; push_cast; rfl
  simp only [fadd, not_special_of_isFinite ha, not_special_of_isFinite hb, Bool.or_self, Bool.false_eq_true, if_false]
  rw [hsum]
  generalize f32Int a + f32Int b = z
  split
  next hz =>
    have h := roundsTo_f32Pack (f32Neg a && f32Neg b) 0 1 one_pos
    rw [hz, Int.cast_zero, zero_div]
    rwa [Nat.cast_zero, zero_div, zero_div, withSign_zero, show roundUnits 0 1 = 0 by decide] at h
  next hz =>
    have h := roundsTo_f32Pack (decide (z < 0)) z.natAbs 1 one_pos
    rwa [Nat.cast_one, div_one, withSign_natAbs_div] at h

theorem fsub_roundsTo : RoundsTo (f32Value a - f32Value b) (fsub a b) := by
  have hb' : isFinite (fneg b) = true := by rwa [isFinite, f32Mag_fneg]
  rw [sub_eq_add_neg, ← f32Value_fneg]
  exact fadd_roundsTo ha hb'

theorem fmul_roundsTo : RoundsTo (f32Value a * f32Value b) (fmul a b) := by
  simp only [fmul, not_special_of_isFinite ha, not_special_of_isFinite hb, Bool.or_self, Bool.false_eq_true, if_false]
  have h := roundsTo_f32Pack (f32Neg a != f32Neg b) (f32Units a * f32Units b) (2 ^ 149) (by positivity)
  rw [f32Value_eq_withSign a, f32Value_eq_withSign b, withSign_mul, div_mul_div_comm, ← div_div]
  exact_mod_cast h

theorem fdiv_roundsTo (hne : f32Value b ≠ 0) : RoundsTo (f32Value a / f32Value b) (fdiv a b) := by
  have hunits : 0 < f32Units b := Nat.pos_of_ne_zero fun h =>
    hne ((f32Value_eq_zero_iff b).2 ((f32Units_eq_zero_iff b).1 h))
  have hzero : isZero b = false := by
    rw [← Bool.not_eq_true, isZero_iff, ← f32Value_eq_zero_iff]; exact hne
  simp only [fdiv, not_special_of_isFinite ha, not_special_of_isFinite hb, hzero, Bool.or_self, Bool.false_eq_true,
    if_false]
  have h := roundsTo_f32Pack (f32Neg a != f32Neg b) (f32Units a * 2 ^ 149) (f32Units b) hunits
  rw [f32Value_eq_withSign a, f32Value_eq_withSign b, withSign_div, div_div_div_cancel_right₀ (by positivity)]
  rwa [Nat.cast_mul, Nat.cast_pow, Nat.cast_ofNat, mul_div_right_comm, mul_div_cancel_right₀ _ (by positivity)] at h

theorem flt_iff_f32Value_lt : flt a b = true ↔ f32Value a < f32Value b := by
  rw [f32Value, f32Value, div_lt_div_iff_of_pos_right (by positivity), Int.cast_lt, ← f32Key_lt_iff]
  simp [flt, not_special_of_isFinite ha, not_special_of_isFinite hb]

end Finite

theorem f32OfInt_roundsTo (n : Int) : RoundsTo n (f32OfInt n) := by
  have h := roundsTo_f32Pack (decide (n < 0)) (n.natAbs * 2 ^ 149) 1 one_pos
  have hvalue := withSign_natAbs_div n 1
  rw [div_one, div_one] at hvalue
  rwa [Nat.cast_one, div_one, Nat.cast_mul, Nat.cast_pow, Nat.cast_ofNat, mul_div_cancel_right₀ _ (by positivity),
    hvalue] at h

/-! ### Special values -/

section Special
variable {a b : F32}

theorem isFinite_of_isZero (h : isZero a = true) : isFinite a = true := by
  rw [isFinite_iff, (isZero_iff a).1 h]; decide

theorem isNaN_eq_false_of_isInf (h : isInf a = true) : isNaN a = false := by
  rw [isNaN, (isInf_iff a).1 h]; decide

theorem fmul_zero_inf (ha : isZero a = true) (hb : isInf b = true) : fmul a b = nanF32 := by
  simp [fmul, ha, hb, isNaN_eq_false_of_isInf hb, not_special_of_isFinite (isFinite_of_isZero ha)]

theorem fmul_inf_zero (ha : isInf a = true) (hb : isZero b = true) : fmul a b = nanF32 := by
  simp [fmul, ha, hb, isNaN_eq_false_of_isInf ha, not_special_of_isFinite (isFinite_of_isZero hb)]

theorem fdiv_by_zero (ha : isFinite a = true) (hb : isZero b = true) :
    fdiv a b = if isZero a then nanF32 else f32Pack (f32Neg a != f32Neg b) infMag := by
  simp [fdiv, hb, not_special_of_isFinite ha, not_special_of_isFinite (isFinite_of_isZero hb)]

theorem fsub_inf_self (h : isInf a = true) : fsub a a = nanF32 := by
  have hneg : isInf (fneg a) = true := by rwa [isInf, f32Mag_fneg]
  simp [fsub, fadd, h, hneg, isNaN_eq_false_of_isInf h, isNaN_eq_false_of_isInf hneg]

theorem isNaN_nanF32 : isNaN nanF32 = true := by decide

theorem isInf_f32Pack_infMag (neg : Bool) : isInf (f32Pack neg infMag) = true :=
  (isInf_iff _).2 (f32Mag_f32Pack neg (by decide))

theorem flt_eq_false_of_isNaN (h : isNaN a = true ∨ isNaN b = true) : flt a b = false := by
  obtain h | h := h <;> simp [flt, h]

end Special

/-- Settles O25: every finite operation goes through one correctly rounded magnitude, and the special values are
read off the operations' cases. -/
theorem arithmeticIsCorrectlyRounded : Obligations.ArithmeticIsCorrectlyRounded := by
  refine ⟨fun a b ha hb => ⟨fadd_roundsTo ha hb, fsub_roundsTo ha hb, fmul_roundsTo ha hb, fdiv_roundsTo ha hb,
    flt_iff_f32Value_lt ha hb⟩, f32OfInt_roundsTo, fun a b => ⟨?_, ?_, ?_, ?_, flt_eq_false_of_isNaN⟩⟩
  · intro ha hb
    rw [fmul_zero_inf ha hb, fmul_inf_zero hb ha]
    exact ⟨isNaN_nanF32, isNaN_nanF32⟩
  · intro ha hne hb
    rw [fdiv_by_zero ha hb, hne]
    exact ⟨isInf_f32Pack_infMag _, f32Neg_f32Pack _ (by decide)⟩
  · intro ha hb
    rw [fdiv_by_zero (isFinite_of_isZero ha) hb, ha]
    exact isNaN_nanF32
  · intro ha
    rw [fsub_inf_self ha]
    exact isNaN_nanF32

end Rounding

end Sys2Proof.Machine

/-! ## While the sequencer runs, the configuration and the transform table stay

`KeepsConfig` holds of every own step of the block, whose one store to memory, S6's, lies in the output buffer,
and, while the sequencer runs, of every action of the outside world but a reset: commands have no effect there
but STOP_PEND or an event, and RW-idle writes are refused. -/
namespace Sys2Proof.Machine

/-- The configuration registers and the bytes below the output buffer are the same. -/
def KeepsConfig (s t : State) : Prop :=
  t.cfg = s.cfg ∧ ∀ a, a < 0x40000 → readByte t.mem a = readByte s.mem a

theorem KeepsConfig.refl (s : State) : KeepsConfig s s := ⟨rfl, fun _ _ => rfl⟩

theorem KeepsConfig.trans {s t u : State} (hst : KeepsConfig s t) (htu : KeepsConfig t u) : KeepsConfig s u :=
  ⟨htu.1.trans hst.1, fun a ha => (htu.2 a ha).trans (hst.2 a ha)⟩

/-- Listing the later requests makes no difference. -/
theorem keepsConfig_replenish (s t : State) : KeepsConfig (replenish s) t ↔ KeepsConfig s t := by
  simp [KeepsConfig]

/-- A store to the output buffer leaves every byte below it. -/
theorem readByte_writeOut_below (m : Memory) (i : Nat) (c : Rgb8) {a : Nat} (ha : a < 0x40000) :
    readByte (writeOut m i c) a = readByte m a := by
  have hout : 0x40000 ≤ outAddr i := by unfold outAddr; omega
  rw [writeOut, readByte_writeWord]
  split_ifs <;> first | rfl | omega

section OwnSteps
variable {s t : State}

/-! ### External calls -/

theorem callNow_keepsConfig {x : Nanos} (h : callNow s = some (x, t)) : KeepsConfig s t := by
  obtain ⟨_, -, rfl⟩ := callNow_eq_some h
  exact .refl s

theorem callSleep_keepsConfig {d : Nanos} (h : callSleep d s = some t) : KeepsConfig s t := by
  obtain ⟨_, -, rfl⟩ := callSleep_eq_some h
  exact .refl s

theorem callWrite_keepsConfig {bytes : List Byte} {whole : Bool} (h : callWrite bytes s = .returned whole t) :
    KeepsConfig s t := by
  obtain ⟨_, _, _, -, -, rfl⟩ := callWrite_returned h
  exact .refl s

theorem sendHeader_keepsConfig (h : sendHeader s = .sent t ∨ sendHeader s = .dropped t) : KeepsConfig s t := by
  unfold sendHeader at h
  split at h
  · simp at h
  · simp at h
  all_goals
    next hcall =>
      obtain rfl : _ = t := by simpa using h
      exact (callWrite_keepsConfig hcall :)

theorem sendPayload_keepsConfig (h : sendPayload s = .sent t ∨ sendPayload s = .dropped t) : KeepsConfig s t := by
  unfold sendPayload at h
  split at h
  · simp at h
  · simp at h
  all_goals
    next hcall =>
      obtain rfl : _ = t := by simpa using h
      exact (callWrite_keepsConfig hcall :)

/-! ### The sequencer -/

theorem stepBoundary_keepsConfig (h : stepBoundary s = .done t) : KeepsConfig s t := by
  unfold stepBoundary at h
  split_ifs at h <;> cases h <;> exact .refl s

theorem stepTick_keepsConfig (h : stepTick s = .done t) : KeepsConfig s t := by
  unfold stepTick at h
  split at h
  · cases h
  next hcall => cases h; exact (callNow_keepsConfig hcall :)

theorem stepCapCheck_keepsConfig (h : stepCapCheck s = .done t) : KeepsConfig s t := by
  unfold stepCapCheck at h
  split at h
  · split at h
    · cases h
    next hcall => cases h; exact (callNow_keepsConfig hcall :)
  · cases h; exact .refl s

theorem stepCapture_keepsConfig (h : stepCapture s = .done t) : KeepsConfig s t := by
  unfold stepCapture at h
  split at h
  · cases h
  all_goals
    next hcall =>
      obtain ⟨_, -, rfl⟩ := callCapture_eq_some hcall
      cases h
      exact .refl s

theorem stepCaptured_keepsConfig (h : stepCaptured s = .done t) : KeepsConfig s t := by
  unfold stepCaptured at h
  split at h
  · cases h
  next hcall => cases h; exact (callNow_keepsConfig hcall :)

theorem stepCapFail_keepsConfig (h : stepCapFail s = .done t) : KeepsConfig s t := by
  cases h; exact .refl s

theorem stepBackoffSleep_keepsConfig (h : stepBackoffSleep s = .done t) : KeepsConfig s t := by
  unfold stepBackoffSleep at h
  split at h
  · cases h
  next hcall => cases h; exact (callSleep_keepsConfig hcall :)

theorem stepReinit_keepsConfig (h : stepReinit s = .done t) : KeepsConfig s t := by
  unfold stepReinit at h
  split at h
  · cases h
  next hcall =>
    obtain ⟨_, -, rfl⟩ := callReinit_eq_some hcall
    cases h
    exact .refl s

theorem stepFrame_keepsConfig (h : stepFrame s = .done t) : KeepsConfig s t := by
  unfold stepFrame at h
  split at h
  · cases h
  all_goals
    next hcall =>
      obtain ⟨_, -, rfl⟩ := callFrame_eq_some hcall
      cases h
      exact .refl s

theorem stepGeometry_keepsConfig (h : stepGeometry s = .done t) : KeepsConfig s t := by
  unfold stepGeometry at h
  split at h
  · cases h
  next hcall =>
    obtain ⟨_, -, rfl⟩ := callGeometry_eq_some hcall
    cases h
    exact .refl s

/-- S6 is the step that stores, and it stores to the output buffer. -/
theorem stepLed_keepsConfig (h : stepLed s = .done t) : KeepsConfig s t := by
  unfold stepLed at h
  split at h
  · cases h
  next hcall =>
    obtain ⟨_, -, rfl⟩ := callAverage_eq_some hcall
    cases h
    exact ⟨rfl, fun _ ha => readByte_writeOut_below _ _ _ ha⟩

theorem stepEmitHeader_keepsConfig (h : stepEmitHeader s = .done t) : KeepsConfig s t := by
  unfold stepEmitHeader at h
  split at h
  · cases h
  · cases h
  next hsent => cases h; exact (sendHeader_keepsConfig (.inl hsent) :)
  next hdropped => cases h; exact (sendHeader_keepsConfig (.inr hdropped) :)

theorem stepEmitPayload_keepsConfig (h : stepEmitPayload s = .done t) : KeepsConfig s t := by
  unfold stepEmitPayload at h
  split at h
  · cases h
  · cases h
  next hsent => cases h; exact (sendPayload_keepsConfig (.inl hsent) :)
  next hdropped => cases h; exact (sendPayload_keepsConfig (.inr hdropped) :)

theorem stepPace_keepsConfig (h : stepPace s = .done t) : KeepsConfig s t := by
  unfold stepPace at h
  split at h
  · cases h
  next hcall => cases h; exact (callNow_keepsConfig hcall :)

theorem stepPaceSleep_keepsConfig {d : Nanos} (h : stepPaceSleep d s = .done t) : KeepsConfig s t := by
  unfold stepPaceSleep at h
  split at h
  · cases h
  next hcall => cases h; exact (callSleep_keepsConfig hcall :)

theorem stepFinish_keepsConfig (h : stepFinish s = .done t) : KeepsConfig s t := by
  cases h; exact .refl s

theorem seqProgress_keepsConfig (h : seqProgress s = .done t) : KeepsConfig s t := by
  cases hpos : s.pos <;> simp only [seqProgress, hpos, reduceCtorEq] at h
  case boundary => exact stepBoundary_keepsConfig h
  case tick => exact stepTick_keepsConfig h
  case capCheck => exact stepCapCheck_keepsConfig h
  case capture => exact stepCapture_keepsConfig h
  case captured => exact stepCaptured_keepsConfig h
  case capFail => exact stepCapFail_keepsConfig h
  case backoffSleep => exact stepBackoffSleep_keepsConfig h
  case reinit => exact stepReinit_keepsConfig h
  case frame => exact stepFrame_keepsConfig h
  case geometry => exact stepGeometry_keepsConfig h
  case led => exact stepLed_keepsConfig h
  case emitHeader => exact stepEmitHeader_keepsConfig h
  case emitPayload => exact stepEmitPayload_keepsConfig h
  case pace => exact stepPace_keepsConfig h
  case paceSleep => exact stepPaceSleep_keepsConfig h
  case finish => exact stepFinish_keepsConfig h

/-! ### The rest of a CMD write, and the own step -/

theorem startClockPart_keepsConfig (h : startClockPart s = .done t) : KeepsConfig s t := by
  unfold startClockPart at h
  split at h
  · cases h
  next hcall => cases h; exact (callNow_keepsConfig hcall :)

theorem emitPayloadPart_keepsConfig (h : emitPayloadPart s = .done t) : KeepsConfig s t := by
  unfold emitPayloadPart at h
  split at h
  · cases h
  · cases h
  next hsent => cases h; exact (sendPayload_keepsConfig (.inl hsent) :)
  next hdropped => cases h; exact (sendPayload_keepsConfig (.inr hdropped) :)

theorem emitWholeFrame_keepsConfig (h : emitWholeFrame s = .done t) : KeepsConfig s t := by
  unfold emitWholeFrame at h
  split at h
  · cases h
  · cases h
  next hdropped => cases h; exact (sendHeader_keepsConfig (.inr hdropped) :)
  next hsent =>
    split at h
    · cases h; exact (sendHeader_keepsConfig (.inl hsent) :)
    · exact (sendHeader_keepsConfig (.inl hsent)).trans (emitPayloadPart_keepsConfig h)

theorem ownStep_keepsConfig (h : ownStep s = .next t) : KeepsConfig s t := by
  obtain ⟨-, rfl⟩ | hdone := settle_next h
  · exact .refl t
  · unfold ownProgress at hdone
    split at hdone
    next w _ =>
      cases w with
      | startClock => exact startClockPart_keepsConfig hdone
      | emitHeader => exact emitWholeFrame_keepsConfig hdone
      | emitPayload => exact emitPayloadPart_keepsConfig hdone
    next => exact seqProgress_keepsConfig hdone

end OwnSteps

/-! ### Actions of the outside world while the sequencer runs -/

/-- A command while the sequencer runs: NOP does nothing, STOP sets STOP_PEND, any other only raises E_CMD_BUSY. -/
theorem exec_running {s : State} (hrun : s.pos ≠ .idle) (i : Instr) :
    exec i s = .next s ∨ exec i s = .next { s with stopPend := true } ∨ exec i s = .next (raise .eCmdBusy s) := by
  cases i
  case nop => exact .inl rfl
  case stop => exact .inr (.inl (if_neg hrun))
  all_goals exact .inr (.inr (whenIdle_busy hrun _))

theorem issueCommand_keepsConfig {s t : State} {w : Word} (hrun : s.pos ≠ .idle) (h : issueCommand w s = .next t) :
    KeepsConfig s t := by
  unfold issueCommand at h
  split at h
  next i _ =>
    obtain he | he | he := exec_running hrun i <;> cases he.symm.trans h <;> exact .refl s
  next => cases h; exact .refl s

theorem whenWritable_running {s : State} (hrun : s.pos ≠ .idle) (written : State) :
    whenWritable s written = raise .eWrBusy s := if_neg hrun

/-- A write of a register of class RW-any changes an operand register and nothing else. -/
theorem setReg_frame_of_rwAny {r : Reg} (hr : regClass r = .rwAny) (v : Word) (s : State) :
    setReg r v s = { s with opnd := (setReg r v s).opnd } := by
  cases r <;> cases hr <;> rfl

theorem writeReg_keepsConfig {s t : State} {r : Reg} {v : Word} (hrun : s.pos ≠ .idle)
    (h : writeReg r v s = .next t) : KeepsConfig s t := by
  cases hclass : regClass r <;> simp only [writeReg, hclass] at h
  case ro => cases h; exact .refl s
  case rwAny => rw [setReg_frame_of_rwAny hclass] at h; cases h; exact .refl s
  case rwIdle => rw [whenWritable_running hrun] at h; cases h; exact .refl s
  case wo => exact issueCommand_keepsConfig hrun h
  case w1c => cases h; exact .refl s

theorem hostWrite_keepsConfig {s t : State} {a : BitVec 20} {width : Nat} {v : Word} (hrun : s.pos ≠ .idle)
    (h : hostWrite a width v s = .next t) : KeepsConfig s t := by
  cases htarget : accessTarget s a width <;> simp only [hostWrite, htarget] at h
  case reg r => exact writeReg_keepsConfig hrun h
  case xf k w => rw [whenWritable_running hrun] at h; cases h; exact .refl s
  case outbuf i => cases h; exact .refl s
  case unmapped => cases h; exact .refl s

theorem hostRead_keepsConfig (a : BitVec 20) (width : Nat) (s : State) : KeepsConfig s (hostRead a width s) := by
  unfold hostRead
  split <;> exact .refl s

theorem perform_keepsConfig {s t : State} {act : HostAction} (hrun : s.pos ≠ .idle) (hact : isReset act = false)
    (h : perform act s = .next t) : KeepsConfig s t := by
  cases act with
  | read a width => cases h; exact hostRead_keepsConfig a width s
  | write a width v => exact hostWrite_keepsConfig hrun h
  | reset accepted answers => cases hact
  | answer more => cases h; exact .refl s

/-- Settles O56: a step is an own step of the block or, by the premise, an action other than a reset. -/
theorem runningNeverChangesConfiguration : Obligations.RunningNeverChangesConfiguration := by
  intro s t hrun hfirst hstep
  refine (keepsConfig_replenish s t).1 ?_
  obtain ⟨hown, -⟩ | ⟨r, rest, hpending, -, ⟨-, -, hown⟩ | ⟨hnow, hact⟩⟩ := step_cases s
  · exact ownStep_keepsConfig (hown.symm.trans hstep)
  · exact (ownStep_keepsConfig (hown.symm.trans hstep) :)
  · have hreset : isReset r.act = false := (hfirst r rest hpending).resolve_right
      fun ⟨hafter, henabled⟩ => by simp [hafter, henabled] at hnow
    exact (perform_keepsConfig (by simpa using hrun) hreset (hact.symm.trans hstep) :)

end Sys2Proof.Machine

/-! ## Host accesses to registers, table words and STATUS, and reset -/
namespace Sys2Proof.Machine

section Accesses
open Sys2Proof.Statements

/-! ### Registers -/

theorem hostRead_regAddr (r : Reg) (s : State) : hostRead (regAddr r) 4 s = { s with readData := readReg s r } :=
  hostRead_reg s r

theorem hostWrite_regAddr (r : Reg) (v : Word) (s : State) : hostWrite (regAddr r) 4 v s = writeReg r v s :=
  hostWrite_reg s r v

theorem regClass_of_mem_rwAnyRegs {r : Reg} (h : r ∈ rwAnyRegs) : regClass r = .rwAny := by
  revert r; decide

theorem regClass_of_mem_rwIdleRegs {r : Reg} (h : r ∈ rwIdleRegs) : regClass r = .rwIdle := by
  revert r; decide

theorem whenWritable_idle {s : State} (hidle : s.pos = .idle) (written : State) :
    whenWritable s written = written := if_pos hidle

theorem writeReg_rwAny {r : Reg} (hr : regClass r = .rwAny) (v : Word) (s : State) :
    writeReg r v s = .next (setReg r v s) := by rw [writeReg, hr]

theorem writeReg_rwIdle {r : Reg} (hr : regClass r = .rwIdle) (v : Word) {s : State} (hidle : s.pos = .idle) :
    writeReg r v s = .next (setReg r v s) := by rw [writeReg, hr, whenWritable_idle hidle]

/-- Setting a register changes configuration and operand registers only. -/
theorem setReg_frame (r : Reg) (v : Word) (s : State) :
    setReg r v s = { s with cfg := (setReg r v s).cfg, opnd := (setReg r v s).opnd } := by
  cases r <;> rfl

/-- Each register shows what no other register's write sets: one pair of registers at a time. -/
theorem readReg_setReg_of_ne {r r' : Reg} (h : r' ≠ r) (v : Word) (s : State) :
    readReg (setReg r v s) r' = readReg s r' := by
  cases r <;> cases r' <;> first | contradiction | rfl

/-- A register that implements the low n bits of a word. -/
theorem zero_append_extractLsb' (m n : Nat) (v : BitVec (m + n)) :
    0#m ++ v.extractLsb' 0 n = v &&& BitVec.ofNat (m + n) (2 ^ n - 1) := by
  have hmask : (2 ^ n - 1) % 2 ^ (m + n) = 2 ^ n - 1 :=
    Nat.mod_eq_of_lt ((Nat.sub_one_lt (by positivity)).trans_le (Nat.pow_le_pow_right two_pos (Nat.le_add_left n m)))
  apply BitVec.eq_of_toNat_eq
  simp [hmask, Nat.and_two_pow_sub_one_eq_mod]

theorem packRgb_unpackRgb (v : Word) : packRgb (unpackRgb v) = v &&& 0x00FFFFFF#32 := by
  have hbyte (x : Byte) : x &&& 255#8 = x := BitVec.and_allOnes
  rw [← word_of_bytes (v &&& 0x00FFFFFF#32)]
  simp [packRgb, unpackRgb, BitVec.extractLsb'_and, hbyte]

/-- Five registers implement a part of the word; the other writable ones hold all of it. -/
theorem readReg_setReg_same {r : Reg} (hr : regClass r = .rwAny ∨ regClass r = .rwIdle) (v : Word) (s : State) :
    readReg (setReg r v s) r = v &&& implementedBits r := by
  cases r
  case ctrl =>
    have hbit : BitVec.ofBool (v.getLsbD 0) = v.extractLsb' 0 1 := by
      apply BitVec.eq_of_getLsbD_eq; simp
    exact (congrArg (0#31 ++ ·) hbit).trans (zero_append_extractLsb' 31 1 v)
  case ledCount => exact zero_append_extractLsb' 15 17 v
  case xformCount => exact zero_append_extractLsb' 25 7 v
  case opaRgb => exact packRgb_unpackRgb v
  case opbRgb => exact packRgb_unpackRgb v
  all_goals first | exact BitVec.and_allOnes.symm | simp [regClass] at hr

/-- Settles O49: an accepted write is `setReg`, which sets its own register and shows in no other. -/
theorem registerReadsWhatWasWritten : Obligations.RegisterReadsWhatWasWritten := by
  intro r v s hr
  have hclass : regClass r = .rwAny ∨ regClass r = .rwIdle :=
    hr.imp regClass_of_mem_rwAnyRegs fun h => regClass_of_mem_rwIdleRegs h.1
  have hwrite : writeReg r v s = .next (setReg r v s) := by
    obtain hany | ⟨hmem, hidle⟩ := hr
    · exact writeReg_rwAny (regClass_of_mem_rwAnyRegs hany) v s
    · exact writeReg_rwIdle (regClass_of_mem_rwIdleRegs hmem) v hidle
  simp only [hostRead_regAddr, hostWrite_regAddr]
  exact ⟨setReg r v s, hwrite, readReg_setReg_same hclass v s, fun r' hne => readReg_setReg_of_ne hne v s,
    setReg_frame r v s⟩

/-! ### Table words -/

theorem accessTarget_xf {s : State} {k w : Nat} (hparams : s.params.valid) (hk : k < s.params.kMax) (hw : w < 16) :
    accessTarget s (BitVec.ofNat 20 (0x1000 + 64 * k + 4 * w)) 4 = .xf k w := by
  obtain ⟨-, -, -, hkMax⟩ := hparams
  have haddr : (BitVec.ofNat 20 (0x1000 + 64 * k + 4 * w)).toNat = 0x1000 + 64 * k + 4 * w :=
    Nat.mod_eq_of_lt (by omega)
  have haligned : (0x1000 + 64 * k + 4 * w) % 4 = 0 := by omega
  have htable : 0x1000 + 64 * k + 4 * w < xfEnd s.params := by unfold xfEnd xfAddr; omega
  have hentry : (0x1000 + 64 * k + 4 * w - 0x1000) / 64 = k := by omega
  have hword : (0x1000 + 64 * k + 4 * w - 0x1000) % 64 / 4 = w := by omega
  have hlow : ¬ 0x1000 + 64 * k + 4 * w < 0x1000 := by omega
  rw [accessTarget, accessOk, haddr, haligned, targetOf, if_pos (by rfl), if_neg hlow, if_pos htable, hentry, hword]

theorem hostRead_xf {s : State} {a : BitVec 20} {width k w : Nat} (h : accessTarget s a width = .xf k w) :
    hostRead a width s = { s with readData := xfWord s k w } := by rw [hostRead, h]

theorem hostWrite_xf_idle {s : State} {a : BitVec 20} {width k w : Nat} (h : accessTarget s a width = .xf k w)
    (hidle : s.pos = .idle) (v : Word) :
    hostWrite a width v s = .next { s with mem := writeWord s.mem (xfAddr k w) (xfWordMask w v) } := by
  rw [hostWrite, h]
  exact congrArg _ (whenWritable_idle hidle _)

/-- Settles O50: the access selects word w of XF[k], before and after, and `writeWord` sets its four bytes. -/
theorem tableWordReadsWhatWasWritten : Obligations.TableWordReadsWhatWasWritten := by
  intro k w v s hidle hparams hk hw a
  let t : State := { s with mem := writeWord s.mem (xfAddr k w) (xfWordMask w v) }
  refine ⟨t, hostWrite_xf_idle (accessTarget_xf hparams hk hw) hidle v, ?_, fun b hb => ?_, rfl⟩
  · have hread := hostRead_xf (s := t) (accessTarget_xf hparams hk hw)
    exact (congrArg State.readData hread).trans (readWord_writeWord_same s.mem (xfAddr k w) _)
  · have ha : xfAddr k w = a := rfl
    rw [readByte_writeWord, ha]
    split_ifs <;> first | rfl | omega

/-! ### STATUS -/

/-- The fields of STATUS, from bit 0 up: STATE, STOP_PEND, four zeros, the sticky bits, zeros. -/
theorem getLsbD_statusWord (s : State) (i : Nat) :
    (statusWord s).getLsbD i =
      if i < 3 then (seqCode s.pos).getLsbD i else if i = 3 then s.stopPend
      else if i < 8 then false else s.sticky.getLsbD (i - 8) := by
  simp only [statusWord, BitVec.getLsbD_append]
  split_ifs <;> try first | rfl | omega
  · next hi => simp [hi]
  · simp
  · simp [BitVec.getLsbD_of_ge s.sticky (i - 8) (by omega)]

theorem seqCode_toNat_le_three (p : SeqPos) : (seqCode p).toNat ≤ 3 := by cases p <;> simp [seqCode]

theorem seqCode_toNat_eq_zero_iff (p : SeqPos) : (seqCode p).toNat = 0 ↔ p = .idle := by cases p <;> simp [seqCode]

theorem seqCode_toNat_eq_two_iff (p : SeqPos) : (seqCode p).toNat = 2 ↔ ∃ d, p = .paceSleep d := by
  cases p <;> simp [seqCode]

theorem seqCode_toNat_eq_three_iff (p : SeqPos) : (seqCode p).toNat = 3 ↔ p = .backoffSleep := by
  cases p <;> simp [seqCode]

theorem statusWord_state (s : State) : (statusWord s).extractLsb' 0 3 = seqCode s.pos := by
  apply BitVec.eq_of_getLsbD_eq
  intro i hi
  simp [getLsbD_statusWord, hi]

theorem statusWord_stopPend (s : State) : (statusWord s).getLsbD 3 = s.stopPend := by
  rw [getLsbD_statusWord, if_neg (by decide), if_pos rfl]

theorem statusWord_reserved_low (s : State) : (statusWord s).extractLsb' 4 4 = 0 := by
  apply BitVec.eq_of_getLsbD_eq
  intro i hi
  simp [getLsbD_statusWord, show ¬ 4 + i < 3 by omega, show ¬ 4 + i = 3 by omega, show 4 + i < 8 by omega]

theorem statusWord_reserved_high (s : State) : (statusWord s).extractLsb' 18 14 = 0 := by
  apply BitVec.eq_of_getLsbD_eq
  intro i hi
  simp [getLsbD_statusWord, show ¬ 18 + i < 3 by omega, show ¬ 18 + i = 3 by omega, show ¬ 18 + i < 8 by omega,
    BitVec.getLsbD_of_ge s.sticky (18 + i - 8) (by omega)]

theorem eventCode_bounds (e : Event) : 8 ≤ eventCode e ∧ eventCode e ≤ 17 := by cases e <;> decide

/-- An event shows in STATUS as the bit of its code. -/
theorem statusWord_raise (e : Event) (s : State) :
    statusWord (raise e s) = statusWord s ||| BitVec.twoPow 32 (eventCode e) := by
  obtain ⟨hlow, hhigh⟩ := eventCode_bounds e
  apply BitVec.eq_of_getLsbD_eq
  intro i hi
  rw [BitVec.getLsbD_or, BitVec.getLsbD_twoPow, getLsbD_statusWord, getLsbD_statusWord]
  obtain hbelow | hsticky := Nat.lt_or_ge i 8
  · have hne : eventCode e ≠ i := by omega
    simp [hbelow, hne]
  · have hiff : eventCode e - 8 = i - 8 ↔ eventCode e = i := by omega
    simp [eventBit, show ¬ i < 3 by omega, show i ≠ 3 by omega, hsticky.not_gt, hiff,
      show eventCode e - 8 < 10 by omega, show eventCode e < 32 by omega]

theorem getLsbD_stickyCleared (sticky : BitVec 10) (v : Word) {i : Nat} (hi : i < 10) :
    (stickyCleared sticky v).getLsbD i = (sticky.getLsbD i && !v.getLsbD (8 + i)) := by
  simp [stickyCleared, hi]

/-- Settles O51: the fields of `statusWord`, read bit by bit. -/
theorem statusReadsAndClears : Obligations.StatusReadsAndClears := by
  intro s
  have hstate : (readReg s .status).extractLsb' 0 3 = seqCode s.pos := statusWord_state s
  simp only [hostRead_regAddr, hostWrite_regAddr, hstate]
  refine ⟨⟨seqCode_toNat_le_three s.pos, seqCode_toNat_eq_zero_iff s.pos, seqCode_toNat_eq_two_iff s.pos,
    seqCode_toNat_eq_three_iff s.pos, statusWord_stopPend s, statusWord_reserved_low s, statusWord_reserved_high s,
    fun e => statusWord_raise e s⟩,
    fun v => ⟨{ s with sticky := stickyCleared s.sticky v }, rfl, rfl, fun i hlow hhigh => ?_⟩⟩
  have hcleared := getLsbD_stickyCleared s.sticky v (i := i - 8) (by omega)
  rw [Nat.add_sub_cancel' hlow] at hcleared
  simp [getLsbD_statusWord, show ¬ i < 3 by omega, show i ≠ 3 by omega, hlow.not_gt, hcleared]

/-! ### Reset -/

theorem outstandingBytes_header {s : State} (h : InHeaderWrite s) : outstandingBytes s = header (ledN s) := by
  obtain hwait | ⟨hwait, hpos⟩ := h
  · simp [outstandingBytes, hwait]
  · simp [outstandingBytes, hwait, hpos]

theorem outstandingBytes_payload {s : State} (h : InPayloadWrite s) : outstandingBytes s = payload s (ledN s) := by
  obtain hwait | ⟨hwait, hpos⟩ := h
  · simp [outstandingBytes, hwait]
  · simp [outstandingBytes, hwait, hpos]

theorem outstandingBytes_none {s : State} (hhead : ¬ InHeaderWrite s) (hpay : ¬ InPayloadWrite s) :
    outstandingBytes s = [] := by
  obtain ⟨h, -⟩ | ⟨h, -⟩ | ⟨-, -, h⟩ := outstandingBytes_cases s
  · exact absurd h hhead
  · exact absurd h hpay
  · exact h

/-- The table of R54 lists every register with what it reads after reset. -/
theorem resetTable_eq : resetTable = allRegs.map fun r => (regOffset r, readReg State.reset r) := by decide

/-- Settles O53: the table is the register map's, and a reset in any state is `State.reset` but for what is
outside the block. -/
theorem resetLeavesTheTabledValues : Obligations.ResetLeavesTheTabledValues := by
  refine ⟨?_, readByte_nil, rfl, rfl, rfl, fun s n a => ⟨fun h => ?_, fun h => ?_, fun hhead hpay => ?_⟩⟩
  · rw [resetTable_eq, List.forall_mem_map]
    exact fun r _ => hostRead_reg State.reset r
  · rw [perform, applyReset, outstandingBytes_header h]
  · rw [perform, applyReset, outstandingBytes_payload h]
  · rw [perform, applyReset, outstandingBytes_none hhead hpay, List.take_nil]

end Accesses

end Sys2Proof.Machine

/-! ## Bus errors, and reads of mapped words

An access is settled by its target: `accessTarget` is `unmapped` exactly where O47 says, and each target's access
has one equation. -/
namespace Sys2Proof.Machine

section BusAccesses
open Sys2Proof.Statements

/-! ### Targets -/

/-- Every register's offset is listed in the table of R54. -/
theorem regAt_eq_none {a : Nat} (h : ∀ p ∈ resetTable, a ≠ p.1) : regAt a = none := by
  rw [resetTable_eq, List.forall_mem_map] at h
  exact List.find?_eq_none.2 fun r hr => by simpa using (h r hr).symm

theorem accessTarget_illegal (s : State) {a : BitVec 20} {width : Nat} (h : width ≠ 4 ∨ a.toNat % 4 ≠ 0) :
    accessTarget s a width = .unmapped := by
  have hok : ¬ accessOk a width = true := by simpa [accessOk, imp_iff_not_or] using h
  rw [accessTarget, if_neg hok]

theorem targetOf_unmapped {p : Params} {a : Nat} (hreg : ∀ e ∈ resetTable, a ≠ e.1)
    (htable : ¬ (0x1000 ≤ a ∧ a < 0x1000 + 64 * p.kMax)) (hout : ¬ (0x40000 ≤ a ∧ a < 0x40000 + 4 * p.nMax)) :
    targetOf p a = .unmapped := by
  unfold targetOf
  split_ifs with hlow hxf hbuf
  · rw [regAt_eq_none hreg]
  · exact absurd ⟨not_lt.1 hlow, hxf⟩ htable
  · exact absurd hbuf hout
  · rfl

theorem accessTarget_outbuf {s : State} {i : Nat} (hparams : s.params.valid) (hi : i < s.params.nMax) :
    accessTarget s (BitVec.ofNat 20 (0x40000 + 4 * i)) 4 = .outbuf i := by
  obtain ⟨-, hnMax, -, hkMax⟩ := hparams
  have haddr : (BitVec.ofNat 20 (0x40000 + 4 * i)).toNat = 0x40000 + 4 * i := Nat.mod_eq_of_lt (by omega)
  have haligned : (0x40000 + 4 * i) % 4 = 0 := by omega
  have hlow : ¬ 0x40000 + 4 * i < 0x1000 := by omega
  have htable : ¬ 0x40000 + 4 * i < xfEnd s.params := by unfold xfEnd xfAddr; omega
  have hbuf : outAddr 0 ≤ 0x40000 + 4 * i ∧ 0x40000 + 4 * i < outEnd s.params := by
    unfold outEnd outAddr; omega
  have hentry : (0x40000 + 4 * i - 0x40000) / 4 = i := by omega
  rw [accessTarget, accessOk, haddr, haligned, targetOf, if_pos (by rfl), if_neg hlow, if_neg htable, if_pos hbuf,
    hentry]

/-! ### Accesses by target -/

variable {s : State} {a : BitVec 20} {width : Nat}

/-- A read changes the value read and, on a bus error, the error bits. -/
theorem hostRead_frame (a : BitVec 20) (width : Nat) (s : State) :
    hostRead a width s =
      { s with readData := (hostRead a width s).readData, sticky := (hostRead a width s).sticky } := by
  unfold hostRead
  split <;> rfl

theorem hostRead_outbuf {i : Nat} (h : accessTarget s a width = .outbuf i) :
    hostRead a width s = { s with readData := readWord s.mem (outAddr i) } := by rw [hostRead, h]

theorem hostWrite_outbuf {i : Nat} (h : accessTarget s a width = .outbuf i) (v : Word) :
    hostWrite a width v s = .next (raise .eBus s) := by rw [hostWrite, h]

theorem hostRead_unmapped (h : accessTarget s a width = .unmapped) :
    hostRead a width s = raise .eBus { s with readData := 0 } := by rw [hostRead, h]

theorem hostWrite_unmapped (h : accessTarget s a width = .unmapped) (v : Word) :
    hostWrite a width v s = .next (raise .eBus s) := by rw [hostWrite, h]

theorem writeReg_ro {r : Reg} (hr : regClass r = .ro) (v : Word) (s : State) :
    writeReg r v s = .next (raise .eBus s) := by rw [writeReg, hr]

/-- Settles O47: each of the accesses selects nothing, a read-only register or the output buffer. -/
theorem busErrorsRaiseOnlyTheirEvent : Obligations.BusErrorsRaiseOnlyTheirEvent := by
  intro v s hparams
  refine ⟨fun a width h => ?_, fun r hr => ?_, fun i hi => hostWrite_outbuf (accessTarget_outbuf hparams hi) v⟩
  · have htarget : accessTarget s a width = .unmapped := by
      by_cases hform : width ≠ 4 ∨ a.toNat % 4 ≠ 0
      · exact accessTarget_illegal s hform
      · obtain ⟨hreg, htable, hout⟩ := (or_assoc.2 h).resolve_left hform
        rw [accessTarget, targetOf_unmapped hreg htable hout, ite_self]
    exact ⟨hostRead_unmapped htarget, hostWrite_unmapped htarget v⟩
  · have hclass : regClass r = .ro := by revert r; decide
    rw [hostWrite_regAddr]
    exact writeReg_ro hclass v s

/-! ### Reads of mapped words -/

theorem toNat_append_eq_add {m n : Nat} (x : BitVec m) (y : BitVec n) :
    (x ++ y).toNat = 2 ^ n * x.toNat + y.toNat := by
  rw [BitVec.toNat_append, ← Nat.shiftLeft_add_eq_or_of_lt y.isLt, Nat.shiftLeft_eq, Nat.mul_comm]

/-- A colour's three bytes as one number. -/
theorem packRgb_eq_rgbWord (c : Rgb8) : packRgb c = rgbWord c := by
  have hpack : (packRgb c).toNat = c.r.toNat + 2 ^ 8 * c.g.toNat + 2 ^ 16 * c.b.toNat := by
    rw [packRgb, toNat_append_eq_add, toNat_append_eq_add, toNat_append_eq_add, BitVec.toNat_ofNat]
    omega
  rw [rgbWord, ← hpack, BitVec.ofNat_toNat, BitVec.setWidth_eq]

theorem zero_append_ofBool (b : Bool) : 0#31 ++ BitVec.ofBool b = if b = true then 1 else 0 := by cases b <;> rfl

/-- `contentsOf` writes out what each register reads, in the order of the register map. -/
theorem contentsOf_eq (s : State) : contentsOf s = allRegs.map fun r => (regOffset r, readReg s r) := by
  have hled : s.cfg.ledCount.setWidth 32 = 0#15 ++ s.cfg.ledCount := BitVec.setWidth_eq_append (by decide)
  have hxform : s.cfg.xformCount.setWidth 32 = 0#25 ++ s.cfg.xformCount := BitVec.setWidth_eq_append (by decide)
  have hhdr : s.res.resHdr1.setWidth 32 = 0#16 ++ s.res.resHdr1 := BitVec.setWidth_eq_append (by decide)
  simp only [contentsOf, hled, hxform, hhdr, ← zero_append_ofBool, ← packRgb_eq_rgbWord]
  rfl

/-- The bits above an appended byte. -/
theorem extractLsb'_append_byte {n : Nat} (x : BitVec n) (b : Byte) (i : Nat) :
    (x ++ b).extractLsb' (i + 8) 8 = x.extractLsb' i 8 := by
  rw [BitVec.extractLsb'_append_eq_of_le (Nat.le_add_left 8 i), Nat.add_sub_cancel]

/-- A word shows the byte at its address lowest (R63). -/
theorem extractLsb'_readWord (m : Memory) (a : Nat) {j : Nat} (hj : j < 4) :
    (readWord m a).extractLsb' (8 * j) 8 = readByte m (a + j) := by
  have hlow {n : Nat} (x : BitVec n) (b : Byte) : (x ++ b).extractLsb' 0 8 = b := BitVec.extractLsb'_append_eq_right
  obtain rfl | rfl | rfl | rfl : j = 0 ∨ j = 1 ∨ j = 2 ∨ j = 3 := by omega
  · exact hlow _ _
  · exact (extractLsb'_append_byte _ _ 0).trans (hlow _ _)
  · exact (extractLsb'_append_byte _ _ 8).trans ((extractLsb'_append_byte _ _ 0).trans (hlow _ _))
  · exact (extractLsb'_append_byte _ _ 16).trans ((extractLsb'_append_byte _ _ 8).trans
      ((extractLsb'_append_byte _ _ 0).trans BitVec.extractLsb'_eq_self))

theorem eq_ofNat_of_toNat_eq {n : Nat} (h : a.toNat = n) : a = BitVec.ofNat 20 n := by
  rw [← h, BitVec.ofNat_toNat, BitVec.setWidth_eq]

theorem hostRead_table (hparams : s.params.valid) (haligned : a.toNat % 4 = 0)
    (h : 0x1000 ≤ a.toNat ∧ a.toNat < 0x1000 + 64 * s.params.kMax) :
    hostRead a 4 s = { s with readData := readWord s.mem a.toNat } := by
  obtain ⟨k, w, hk, hw, ha⟩ : ∃ k w, k < s.params.kMax ∧ w < 16 ∧ a.toNat = xfAddr k w :=
    ⟨(a.toNat - 0x1000) / 64, (a.toNat - 0x1000) % 64 / 4, by omega, by omega, by unfold xfAddr; omega⟩
  have htarget : accessTarget s a 4 = .xf k w := by
    rw [eq_ofNat_of_toNat_eq ha]
    exact accessTarget_xf hparams hk hw
  rw [hostRead_xf htarget, ha, xfWord]

theorem hostRead_outputBuffer (hparams : s.params.valid) (haligned : a.toNat % 4 = 0)
    (h : 0x40000 ≤ a.toNat ∧ a.toNat < 0x40000 + 4 * s.params.nMax) :
    hostRead a 4 s = { s with readData := readWord s.mem a.toNat } := by
  obtain ⟨i, hi, ha⟩ : ∃ i, i < s.params.nMax ∧ a.toNat = outAddr i :=
    ⟨(a.toNat - 0x40000) / 4, by omega, by unfold outAddr; omega⟩
  have htarget : accessTarget s a 4 = .outbuf i := by
    rw [eq_ofNat_of_toNat_eq ha]
    exact accessTarget_outbuf hparams hi
  rw [hostRead_outbuf htarget, ha]

/-- Settles O52: the contents are the register map's, and in both windows a read is `readWord` at its address. -/
theorem readsHaveNoSideEffect : Obligations.ReadsHaveNoSideEffect := by
  intro s
  refine ⟨rfl, ?_, fun a hparams haligned hmapped => ?_⟩
  · rw [contentsOf_eq, List.forall_mem_map]
    exact fun r _ => hostRead_reg s r
  · have hread := hmapped.elim (hostRead_table hparams haligned) (hostRead_outputBuffer hparams haligned)
    exact ⟨readWord s.mem a.toNat, hread, fun j hj => extractLsb'_readWord s.mem a.toNat hj⟩

end BusAccesses

end Sys2Proof.Machine

/-! ## The interleaving of the outside world and the block

`step` has one equation per way it can go: nothing is listed, the first request is held back, an own step comes
before it, or it takes effect. -/
namespace Sys2Proof.Machine

section Interleaving
variable {s : State} {r : Request} {rest : List Request}

/-! ### The ways of a step -/

/-- A waiting CMD write holds back the host's accesses, and no other request. -/
theorem requestOpen_eq_true_iff {act : HostAction} :
    requestOpen s act = true ↔ s.cmdWait = none ∨ isAccess act = false := by
  simp [requestOpen]

@[simp] theorem requestOpen_replenish (s : State) (act : HostAction) :
    requestOpen (replenish s) act = requestOpen s act := by
  rw [requestOpen, replenish_cmdWait, requestOpen]

theorem step_of_nothing_listed (h : (replenish s).pending = []) : step s = ownStep (replenish s) := by
  rw [step, stepListed, h]

theorem step_of_held_back (h : (replenish s).pending = r :: rest) (hheld : ¬ requestOpen s r.act = true) :
    step s = ownStep (replenish s) := by
  simp only [step, stepListed, h, requestOpen_replenish]
  exact if_neg hheld

theorem step_of_own_first {n : Nat} (h : (replenish s).pending = r :: rest) (hopen : requestOpen s r.act = true)
    (hafter : r.after = n + 1) (henabled : ownEnabled (replenish s) = true) :
    step s = ownStep { replenish s with pending := { r with after := n } :: rest } := by
  simp [step, stepListed, h, hopen, hafter, henabled]

theorem step_of_request (h : (replenish s).pending = r :: rest) (hopen : requestOpen s r.act = true)
    (hnow : r.after = 0 ∨ ownEnabled (replenish s) = false) :
    step s = perform r.act { replenish s with pending := rest } := by
  have hno : ¬ (r.after ≠ 0 ∧ ownEnabled (replenish s) = true) := by
    rintro ⟨hafter, henabled⟩
    simp [hafter, henabled] at hnow
  simp only [step, stepListed, h, requestOpen_replenish, if_pos hopen, if_neg hno]

/-! ### A host that reads for ever -/

/-- R348: with nothing listed, a host that only reads one address for ever takes every step. -/
def ReadsForEver (a : BitVec 20) (width : Nat) (s : State) : Prop :=
  s.cmdWait = none ∧ s.pending = [] ∧ s.later = .polls [{ after := 0, act := .read a width }]

theorem step_of_readsForEver {a : BitVec 20} {width : Nat} (h : ReadsForEver a width s) :
    step s = .next (hostRead a width s) := by
  obtain ⟨hwait, hpending, hlater⟩ := h
  have hlisted : replenish s = { s with pending := [{ after := 0, act := .read a width }] } := by
    rw [replenish, hpending, hlater]
  have hsame : { replenish s with pending := [] } = s := by rw [hlisted, ← hpending]
  rw [step_of_request (congrArg State.pending hlisted) (requestOpen_eq_true_iff.2 (.inl hwait)) (.inl rfl), hsame,
    perform]

theorem readsForEver_hostRead {a : BitVec 20} {width : Nat} (h : ReadsForEver a width s) :
    ReadsForEver a width (hostRead a width s) := by
  rw [hostRead_frame]
  exact h

/-- The host's reads are all that happens, in any number of steps. -/
theorem stepsFrom_of_readsForEver {a : BitVec 20} {width : Nat} (n : Nat) (h : ReadsForEver a width s) :
    ∃ t, Statements.stepsFrom n s = .next t ∧ t = { s with readData := t.readData, sticky := t.sticky } := by
  induction n generalizing s with
  | zero => exact ⟨s, rfl, rfl⟩
  | succ n ih =>
    obtain ⟨t, hsteps, ht⟩ := ih (readsForEver_hostRead h)
    refine ⟨t, ?_, ?_⟩
    · rw [Statements.stepsFrom, step_of_readsForEver h]
      exact hsteps
    · rw [hostRead_frame] at ht
      exact ht

end Interleaving

/-- Settles O6: the equations of `step`, clause by clause, and the induction on the number of the host's reads. -/
theorem stepInterleavesHostAndBlock : Obligations.StepInterleavesHostAndBlock := by
  intro s u
  have hlisted : replenish s = u := by
    cases hpending : s.pending with
    | nil => cases hlater : s.later <;> simp [u, replenish, hpending, hlater]
    | cons r rest => simp [u, replenish, hpending]
  clear_value u
  subst hlisted
  refine ⟨rfl, step_of_nothing_listed, fun r rest hlisted => ⟨?heldBack, ?listed⟩, fun a width v => ⟨rfl, rfl⟩, ?polls⟩
  case heldBack =>
    intro hwait haccess
    exact step_of_held_back hlisted (by simp [requestOpen_eq_true_iff, hwait, haccess])
  case listed =>
    intro hfree
    have hopen : requestOpen s r.act = true := requestOpen_eq_true_iff.2 hfree
    exact ⟨step_of_request hlisted hopen, fun n => step_of_own_first hlisted hopen⟩
  case polls =>
    intro a width hwait hpending hlater n
    exact stepsFrom_of_readsForEver n ⟨hwait, hpending, hlater⟩

end Sys2Proof.Machine

/-! ## The wire only grows

The transport's call and a reset append to the wire; no other operation names it. -/
namespace Sys2Proof.Machine

section Wire
variable {s t : State}

/-! ### Transport writes -/

theorem callWrite_wire {bytes : List Byte} {whole : Bool} (h : callWrite bytes s = .returned whole t) :
    s.wire <+: t.wire := by
  obtain ⟨k, _, _, -, -, rfl⟩ := callWrite_returned h
  exact List.prefix_append s.wire (bytes.take k)

theorem sendHeader_wire (h : sendHeader s = .sent t ∨ sendHeader s = .dropped t) : s.wire <+: t.wire := by
  grind [sendHeader, callWrite_wire, dropFrame_wire, raise_wire]

theorem sendPayload_wire (h : sendPayload s = .sent t ∨ sendPayload s = .dropped t) : s.wire <+: t.wire := by
  grind [sendPayload, callWrite_wire, dropFrame_wire, raise_wire]

/-! ### Own steps -/

/-- Outside S7 the sequencer sends nothing: the answered call leaves the wire, and so does the rest of the step. -/
theorem seqProgress_wire_eq (hhead : s.pos ≠ .emitHeader) (hpay : s.pos ≠ .emitPayload)
    (h : seqProgress s = .done t) : t.wire = s.wire := by
  cases hpos : s.pos <;> simp only [seqProgress, hpos, reduceCtorEq] at h
  case emitHeader => exact absurd hpos hhead
  case emitPayload => exact absurd hpos hpay
  case boundary => grind [stepBoundary]
  case tick => grind [stepTick, callNow_eq_some]
  case capCheck => grind [stepCapCheck, callNow_eq_some]
  case capture => grind [stepCapture, callCapture_eq_some]
  case captured => grind [stepCaptured, callNow_eq_some]
  case capFail => grind [stepCapFail, raise_wire]
  case backoffSleep => grind [stepBackoffSleep, callSleep_eq_some]
  case reinit => grind [stepReinit, callReinit_eq_some]
  case frame => grind [stepFrame, callFrame_eq_some, raise_wire]
  case geometry => grind [stepGeometry, callGeometry_eq_some]
  case led => grind [stepLed, callAverage_eq_some]
  case pace => grind [stepPace, callNow_eq_some]
  case paceSleep => grind [stepPaceSleep, callSleep_eq_some]
  case finish => grind [stepFinish]

theorem seqProgress_wire (h : seqProgress s = .done t) : s.wire <+: t.wire := by
  by_cases hhead : s.pos = .emitHeader
  · rw [seqProgress, hhead] at h
    grind [stepEmitHeader, sendHeader_wire]
  by_cases hpay : s.pos = .emitPayload
  · rw [seqProgress, hpay] at h
    grind [stepEmitPayload, sendPayload_wire]
  · rw [seqProgress_wire_eq hhead hpay h]

theorem startClockPart_wire (h : startClockPart s = .done t) : s.wire <+: t.wire := by
  grind [startClockPart, callNow_eq_some]

theorem emitPayloadPart_wire (h : emitPayloadPart s = .done t) : s.wire <+: t.wire := by
  grind [emitPayloadPart, sendPayload_wire]

theorem emitWholeFrame_wire (h : emitWholeFrame s = .done t) : s.wire <+: t.wire := by
  unfold emitWholeFrame at h
  split at h
  · cases h
  · cases h
  next hdropped => cases h; exact (sendHeader_wire (.inr hdropped) :)
  next hsent =>
    have hheader := sendHeader_wire (.inl hsent)
    split at h
    · cases h; exact hheader
    · exact hheader.trans (emitPayloadPart_wire h)

theorem resumeCommand_wire {w : CmdWait} (h : resumeCommand w s = .done t) : s.wire <+: t.wire := by
  cases w with
  | startClock => exact startClockPart_wire h
  | emitHeader => exact emitWholeFrame_wire h
  | emitPayload => exact emitPayloadPart_wire h

/-! ### Outcomes: the guards of commands and accesses add an event at most -/

/-- No byte of the wire is taken or changed by an outcome. -/
def WireGrows (s : State) (o : Host.Outcome State Fault Refusal) : Prop := ∀ t, o = .next t → s.wire <+: t.wire

theorem wireGrows_next (h : s.wire <+: t.wire) : WireGrows s (.next t) := by
  rintro _ ⟨⟩
  exact h

theorem wireGrows_same (h : t.wire = s.wire) : WireGrows s (.next t) := wireGrows_next (h ▸ List.prefix_rfl)

theorem wireGrows_settle {waiting : State} {p : Progress} (hwaiting : waiting.wire = s.wire)
    (hdone : ∀ t, p = .done t → s.wire <+: t.wire) : WireGrows s (settle waiting p) := by
  intro t h
  obtain ⟨-, rfl⟩ | h := settle_next h
  · rw [hwaiting]
  · exact hdone t h

variable {run : Host.Outcome State Fault Refusal}

/-- A guard that refuses by an event. -/
theorem wireGrows_guard {c : Prop} [Decidable c] (e : Event) (h : WireGrows s run) :
    WireGrows s (if c then run else .next (raise e s)) := by
  split
  · exact h
  · exact wireGrows_same (raise_wire e s)

theorem wireGrows_whenIdle (h : WireGrows s run) : WireGrows s (whenIdle s run) := wireGrows_guard .eCmdBusy h

theorem wireGrows_whenEntry {k : Nat} (h : WireGrows s run) : WireGrows s (whenEntry k s run) :=
  wireGrows_guard .eIndex h

theorem wireGrows_whenLedCount (h : WireGrows s run) : WireGrows s (whenLedCount s run) := wireGrows_guard .eConfig h

theorem wireGrows_ownStep (s : State) : WireGrows s (ownStep s) := by
  refine wireGrows_settle rfl fun t hdone => ?_
  unfold ownProgress at hdone
  split at hdone
  · exact resumeCommand_wire hdone
  · exact seqProgress_wire hdone

/-! ### Commands -/

theorem wireGrows_execHsv2rgb (s : State) : WireGrows s (execHsv2rgb s) := by
  refine wireGrows_whenIdle ?_
  split <;> exact wireGrows_same rfl

theorem wireGrows_execStart (s : State) : WireGrows s (execStart s) :=
  wireGrows_whenIdle (wireGrows_guard .eConfig (wireGrows_settle rfl fun _ hdone => (startClockPart_wire hdone :)))

theorem wireGrows_execStop (s : State) : WireGrows s (execStop s) := by
  unfold execStop
  split <;> exact wireGrows_same rfl

/-- Each command by its guards; of what runs behind them only EMIT's frame reaches the wire. -/
theorem wireGrows_exec (i : Instr) (s : State) : WireGrows s (exec i s) := by
  cases i with
  | nop idx => exact wireGrows_same rfl
  | rgb2hsv idx => exact wireGrows_whenIdle (wireGrows_same rfl)
  | hsv2rgb idx => exact wireGrows_execHsv2rgb s
  | chan k => exact wireGrows_whenIdle (wireGrows_whenEntry (wireGrows_same rfl))
  | gain k => exact wireGrows_whenIdle (wireGrows_whenEntry (wireGrows_same rfl))
  | pipe i => exact wireGrows_whenIdle (wireGrows_same rfl)
  | smooth idx => exact wireGrows_whenIdle (wireGrows_same rfl)
  | factor idx => exact wireGrows_whenIdle (wireGrows_same rfl)
  | hdr idx => exact wireGrows_whenIdle (wireGrows_whenLedCount (wireGrows_same rfl))
  | emit idx => exact wireGrows_whenIdle (wireGrows_whenLedCount (wireGrows_settle rfl fun _ => emitWholeFrame_wire))
  | start idx => exact wireGrows_execStart s
  | stop idx => exact wireGrows_execStop s

/-! ### Actions of the outside world -/

theorem wireGrows_issueCommand (w : Word) (s : State) : WireGrows s (issueCommand w s) := by
  unfold issueCommand
  split
  · exact wireGrows_exec _ s
  · exact wireGrows_same rfl

theorem whenWritable_wire {written : State} (h : written.wire = s.wire) : (whenWritable s written).wire = s.wire := by
  unfold whenWritable
  split
  · exact h
  · rfl

theorem setReg_wire (r : Reg) (v : Word) (s : State) : (setReg r v s).wire = s.wire := by rw [setReg_frame]

theorem wireGrows_writeReg (r : Reg) (v : Word) (s : State) : WireGrows s (writeReg r v s) := by
  unfold writeReg
  cases regClass r with
  | ro => exact wireGrows_same rfl
  | rwAny => exact wireGrows_same (setReg_wire r v s)
  | rwIdle => exact wireGrows_same (whenWritable_wire (setReg_wire r v s))
  | wo => exact wireGrows_issueCommand v s
  | w1c => exact wireGrows_same rfl

theorem wireGrows_hostWrite (a : BitVec 20) (width : Nat) (v : Word) (s : State) :
    WireGrows s (hostWrite a width v s) := by
  unfold hostWrite
  cases accessTarget s a width with
  | reg r => exact wireGrows_writeReg r v s
  | xf k w => exact wireGrows_same (whenWritable_wire rfl)
  | outbuf i => exact wireGrows_same rfl
  | unmapped => exact wireGrows_same rfl

theorem hostRead_wire (a : BitVec 20) (width : Nat) (s : State) : (hostRead a width s).wire = s.wire := by
  rw [hostRead_frame]

theorem wireGrows_perform (act : HostAction) (s : State) : WireGrows s (perform act s) := by
  cases act with
  | read a width => exact wireGrows_same (hostRead_wire a width s)
  | write a width v => exact wireGrows_hostWrite a width v s
  | reset accepted answers => exact wireGrows_next (List.prefix_append s.wire _)
  | answer more => exact wireGrows_same rfl

theorem wireGrows_step (s : State) : WireGrows s (step s) := by
  have hown (u : State) (hu : u.wire = s.wire) : WireGrows s (ownStep u) := fun t h => hu ▸ wireGrows_ownStep u t h
  have hact (act : HostAction) (u : State) (hu : u.wire = s.wire) : WireGrows s (perform act u) :=
    fun t h => hu ▸ wireGrows_perform act u t h
  obtain ⟨hstep, -⟩ | ⟨r, rest, -, -, ⟨-, -, hstep⟩ | ⟨-, hstep⟩⟩ := step_cases s <;> rw [hstep]
  · exact hown _ (replenish_wire s)
  · exact hown _ (replenish_wire s)
  · exact hact _ _ (replenish_wire s)

end Wire

/-- Settles O57: an own step or an action of the outside world, each from a state with the same wire. -/
theorem wireOnlyGrows : Obligations.WireOnlyGrows := by
  intro s t hstep
  obtain ⟨bytes, hbytes⟩ := wireGrows_step s t hstep
  exact ⟨bytes, hbytes.symm⟩

end Sys2Proof.Machine

/-! ## Decoding and encoding of command words

A word is its three fields, so a command and a word belong together when the word's RSV is 0, its OP is the
command's and its IDX is the command's index. `decode` and `encode` are each compared with that. -/
namespace Sys2Proof

/-! ### The opcode map -/

/-- A row of the map builds commands with its OP and the index it is given. -/
theorem opcodeMap_row {row : Nat × (Nat → Instr)} (h : row ∈ opcodeMap) (n : Nat) :
    opcodeOf (row.2 n) = row.1 ∧ (row.2 n).idx = n := by
  have hall : ∀ row ∈ opcodeMap, opcodeOf (row.2 n) = row.1 ∧ (row.2 n).idx = n := by
    simp [opcodeMap, opcodeOf, Instr.idx]
  exact hall row h

/-- The row found for a command's OP builds the command from its index. -/
theorem find_opcodeOf (i : Instr) :
    ∃ row, opcodeMap.find? (fun row => row.1 == opcodeOf i) = some row ∧ row.2 i.idx = i := by
  cases i <;> exact ⟨_, rfl, rfl⟩

theorem opcodeOf_mem (i : Instr) : opcodeOf i ∈ opcodeMap.map Prod.fst := by
  obtain ⟨row, hfind, -⟩ := find_opcodeOf i
  exact List.mem_map.2 ⟨row, List.mem_of_find?_eq_some hfind, by simpa using List.find?_some hfind⟩

/-- Every OP of the map fits its field (R90). -/
theorem opcodeOf_lt (i : Instr) : opcodeOf i < 256 := by
  have hall : ∀ op ∈ opcodeMap.map Prod.fst, op < 256 := by decide
  exact hall _ (opcodeOf_mem i)

/-! ### The three fields of a word -/

/-- A word is its fields from the high bits down (R90). -/
theorem append_fields (w : Word) : (w.extractLsb' 24 8 ++ w.extractLsb' 8 16 ++ w.extractLsb' 0 8 : Word) = w := by
  rw [BitVec.extractLsb'_append_extractLsb'_eq_extractLsb' (by rfl),
    BitVec.extractLsb'_append_extractLsb'_eq_extractLsb' (by rfl)]
  exact BitVec.extractLsb'_eq_self

theorem idxField_lt (w : Word) : idxField w < 65536 := (w.extractLsb' 8 16).isLt

@[simp] theorem rsvField_encode (i : Instr) : rsvField (encode i) = 0 := by
  have hrsv : (encode i).extractLsb' 24 8 = 0#8 :=
    (BitVec.extractLsb'_append_eq_of_le (by decide)).trans
      ((BitVec.extractLsb'_append_eq_of_le (by decide)).trans BitVec.extractLsb'_eq_self)
  rw [rsvField, hrsv]
  rfl

@[simp] theorem opField_encode (i : Instr) : opField (encode i) = opcodeOf i := by
  have hop : (encode i).extractLsb' 0 8 = BitVec.ofNat 8 (opcodeOf i) := BitVec.extractLsb'_append_eq_right
  rw [opField, hop]
  exact Nat.mod_eq_of_lt (opcodeOf_lt i)

theorem idxField_encode {i : Instr} (h : i.WellFormed) : idxField (encode i) = i.idx := by
  have hidx : (encode i).extractLsb' 8 16 = BitVec.ofNat 16 i.idx :=
    (BitVec.extractLsb'_append_eq_of_le (by decide)).trans BitVec.extractLsb'_append_eq_right
  rw [idxField, hidx]
  exact Nat.mod_eq_of_lt h

/-- A word with RSV = 0 is the encoding of any command with its OP and its IDX. -/
theorem encode_eq_of_fields {w : Word} {i : Instr} (hrsv : rsvField w = 0) (hop : opField w = opcodeOf i)
    (hidx : idxField w = i.idx) : encode i = w := by
  have hzero : w.extractLsb' 24 8 = 0#8 := BitVec.eq_of_toNat_eq hrsv
  calc encode i = 0#8 ++ BitVec.ofNat 16 (idxField w) ++ BitVec.ofNat 8 (opField w) := by rw [hidx, hop, encode]
    _ = w.extractLsb' 24 8 ++ w.extractLsb' 8 16 ++ w.extractLsb' 0 8 := by
      rw [hzero, idxField, opField, BitVec.ofNat_toNat, BitVec.ofNat_toNat, BitVec.setWidth_eq, BitVec.setWidth_eq]
    _ = w := append_fields w

/-! ### Decoding -/

/-- What a word decodes to, in its three fields (R91 to R93). -/
theorem decode_eq_ok_iff_fields (w : Word) (i : Instr) :
    decode w = .ok i ↔ rsvField w = 0 ∧ opField w = opcodeOf i ∧ idxField w = i.idx := by
  constructor
  · intro h
    unfold decode at h
    split at h
    next hrsv =>
      split at h
      next row hfind =>
        cases h
        have hop : row.1 = opField w := by simpa using List.find?_some hfind
        obtain ⟨hrow, hidx⟩ := opcodeMap_row (List.mem_of_find?_eq_some hfind) (idxField w)
        exact ⟨hrsv, by rw [hrow, hop], hidx.symm⟩
      next => cases h
    next => cases h
  · rintro ⟨hrsv, hop, hidx⟩
    obtain ⟨row, hfind, hrow⟩ := find_opcodeOf i
    rw [decode, if_pos hrsv, hop, hfind, hidx]
    exact congrArg _ hrow

/-- Decoding and encoding are each other's inverse on well-formed commands (R90 to R92). -/
theorem decode_eq_ok_iff_encode (w : Word) (i : Instr) : decode w = .ok i ↔ i.WellFormed ∧ encode i = w := by
  rw [decode_eq_ok_iff_fields]
  constructor
  · rintro ⟨hrsv, hop, hidx⟩
    exact ⟨hidx.symm.trans_lt (idxField_lt w), encode_eq_of_fields hrsv hop hidx⟩
  · rintro ⟨hwf, rfl⟩
    exact ⟨rsvField_encode i, opField_encode i, idxField_encode hwf⟩

/-- The legal words are those with RSV = 0 and an OP of the map (R93). -/
theorem exists_decode_eq_ok_iff (w : Word) :
    (∃ i, decode w = .ok i) ↔ rsvField w = 0 ∧ opField w ∈ opcodeMap.map Prod.fst := by
  simp only [decode_eq_ok_iff_fields]
  constructor
  · rintro ⟨i, hrsv, hop, -⟩
    exact ⟨hrsv, hop ▸ opcodeOf_mem i⟩
  · rintro ⟨hrsv, hlisted⟩
    obtain ⟨row, hmem, hop⟩ := List.mem_map.1 hlisted
    obtain ⟨hrow, hidx⟩ := opcodeMap_row hmem (idxField w)
    exact ⟨row.2 (idxField w), hrsv, by rw [hrow, hop], hidx.symm⟩

/-- Settles O1, from what a word's fields say it decodes to. -/
theorem decodeOfEncodeIsIdentity : Obligations.DecodeOfEncodeIsIdentity :=
  fun i hwf => (decode_eq_ok_iff_encode (encode i) i).2 ⟨hwf, rfl⟩

/-- Settles O2, the same equivalence read the other way. -/
theorem encodeOfDecodeIsIdentity : Obligations.EncodeOfDecodeIsIdentity :=
  fun w i => (decode_eq_ok_iff_encode w i).1

/-- Settles O3: fifteen words, each decoded by the model. -/
theorem workedEncodingsDecode : Obligations.WorkedEncodingsDecode := by
  unfold Obligations.WorkedEncodingsDecode
  decide

end Sys2Proof

/-! ### Words written to CMD -/
namespace Sys2Proof.Machine

theorem issueCommand_of_legal {w : Word} {i : Instr} (h : decode w = .ok i) (s : State) :
    issueCommand w s = exec i s := by
  rw [issueCommand, h]

theorem issueCommand_of_illegal {w : Word} (h : ¬ ∃ i, decode w = .ok i) (s : State) :
    issueCommand w s = .next (raise .eCmdIllegal s) := by
  unfold issueCommand
  split
  next i hi => exact absurd ⟨i, hi⟩ h
  next => rfl

/-- R93's condition for an illegal word, on its bits, holds of exactly the words that do not decode. -/
theorem illegal_bits_iff (w : Word) :
    (w.extractLsb' 24 8 ≠ 0 ∨ (w.extractLsb' 0 8).toNat ∉ [0, 1, 2, 3, 4, 5, 6, 7, 8, 9, 0x10, 0x11]) ↔
      ¬ ∃ i, decode w = .ok i := by
  rw [exists_decode_eq_ok_iff, not_and_or]
  exact or_congr_left (not_congr BitVec.toNat_inj.symm)

/-- Settles O4: a CMD write issues its word, and only a word that does not decode raises the event. -/
theorem illegalWordsRaiseOnlyTheirEvent : Obligations.IllegalWordsRaiseOnlyTheirEvent := by
  intro w s
  have hissue : hostWrite 0x0000C#20 4 w s = issueCommand w s := hostWrite_cmd s w
  rw [hissue]
  split_ifs with h
  · exact issueCommand_of_illegal ((illegal_bits_iff w).1 h) s
  · obtain ⟨i, hi⟩ := not_not.1 (mt (illegal_bits_iff w).2 h)
    exact ⟨i, hi, issueCommand_of_legal hi s⟩

end Sys2Proof.Machine

/-! ## Values of binary32 numbers

What the colour rules need of R15: the ranges of R120 and R128 read as inequalities of values, which numbers are
binary32 values, and how far a rounding can lie from the exact result. -/
namespace Sys2Proof.Machine
open Sys2Proof.Statements

/-! ### Comparisons -/

theorem natAbs_f32Key (a : F32) : (f32Key a).natAbs = f32Mag a := by
  unfold f32Key
  split <;> simp

theorem isNaN_eq_false_iff (a : F32) : isNaN a = false ↔ f32Mag a ≤ infMag := by simp [isNaN]

theorem flt_eq_true_iff (a b : F32) :
    flt a b = true ↔ isNaN a = false ∧ isNaN b = false ∧ f32Key a < f32Key b := by
  simp [flt, and_assoc]

/-- What lies between a finite number and any other number is finite. -/
theorem isFinite_of_between {a lo hi : F32} (hlo : f32Key lo ≤ f32Key a) (hlow : isFinite lo = true)
    (hhi : flt a hi = true) : isFinite a = true := by
  obtain ⟨-, hhiNaN, hkey⟩ := (flt_eq_true_iff a hi).1 hhi
  rw [isNaN_eq_false_iff] at hhiNaN
  rw [isFinite_iff] at hlow ⊢
  have hmag := natAbs_f32Key a
  have hmagLo := natAbs_f32Key lo
  have hmagHi := natAbs_f32Key hi
  omega

theorem flt_eq_false_iff_of_isFinite {a b : F32} (ha : isFinite a = true) (hb : isFinite b = true) :
    flt a b = false ↔ f32Value b ≤ f32Value a := by
  rw [← Bool.not_eq_true, flt_iff_f32Value_lt ha hb, not_lt]

/-! ### Which numbers are binary32 values -/

/-- x is the value of some finite binary32 pattern. -/
def IsF32 (x : ℚ) : Prop := ∃ m : F32, isFinite m = true ∧ f32Value m = x

theorem IsF32.neg {x : ℚ} (h : IsF32 x) : IsF32 (-x) := by
  obtain ⟨m, hm, rfl⟩ := h
  exact ⟨fneg m, by rwa [isFinite, f32Mag_fneg], f32Value_fneg m⟩

/-- A significand of at most 24 bits, shifted to a multiple of 2^-126, has a magnitude number. -/
theorem exists_unitsOf_eq {k j : Nat} (hk : k ≤ 2 ^ 24) (hlow : 23 ≤ j) (hhigh : j ≤ 149) :
    ∃ mag, mag < infMag ∧ unitsOf mag = k * 2 ^ j := by
  obtain rfl | hpos := Nat.eq_zero_or_pos k
  · exact ⟨0, by decide, by simp⟩
  have hlog : 2 ^ k.log2 ≤ k := Nat.log2_self_le hpos.ne'
  have hlog' : k < 2 ^ (k.log2 + 1) := Nat.lt_log2_self
  obtain hbits | htop : k.log2 ≤ 23 ∨ 24 ≤ k.log2 := by omega
  · have hnormal : 2 ^ 23 ≤ k * 2 ^ (23 - k.log2) :=
      calc 2 ^ 23 = 2 ^ k.log2 * 2 ^ (23 - k.log2) := by rw [← pow_add, Nat.add_sub_of_le hbits]
        _ ≤ _ := Nat.mul_le_mul_right _ hlog
    have hle : k * 2 ^ (23 - k.log2) ≤ 2 ^ 24 :=
      calc k * 2 ^ (23 - k.log2) ≤ 2 ^ (k.log2 + 1) * 2 ^ (23 - k.log2) := Nat.mul_le_mul_right _ hlog'.le
        _ = 2 ^ 24 := by rw [← pow_add]; congr 1; omega
    refine ⟨(j - (23 - k.log2)) * 2 ^ 23 + k * 2 ^ (23 - k.log2), by unfold infMag; omega, ?_⟩
    rw [unitsOf_exp_add _ _ (.inr hnormal) hle, mul_assoc, ← pow_add]
    congr 2; omega
  · have hk' : 2 ^ 24 ≤ k := (Nat.pow_le_pow_right (by omega) htop).trans hlog
    exact ⟨j * 2 ^ 23 + k, by unfold infMag; omega, unitsOf_exp_add j k (.inr (by omega)) hk⟩

theorem isF32_dyadic {k : ℤ} {e : Nat} (hk : |k| ≤ 2 ^ 24) (he : e ≤ 126) : IsF32 (k / 2 ^ e) := by
  have hk' : k.natAbs ≤ 2 ^ 24 := by rw [abs_le] at hk; omega
  obtain ⟨mag, hfin, hunits⟩ := exists_unitsOf_eq (j := 149 - e) hk' (by omega) (by omega)
  have hmag : f32Mag (f32Pack (decide (k < 0)) mag) = mag := f32Mag_f32Pack _ (hfin.trans (by decide))
  refine ⟨f32Pack (decide (k < 0)) mag, (isFinite_iff _).2 (hmag.trans_lt hfin), ?_⟩
  have hvalue : (unitsOf mag : ℚ) / 2 ^ 149 = k.natAbs / 2 ^ e := by
    rw [hunits, div_eq_div_iff (by positivity) (by positivity), show 149 = 149 - e + e by omega, pow_add]
    push_cast
    simp only [Nat.add_sub_cancel]
    ring
  rw [f32Value_eq_withSign, f32Neg_f32Pack _ (hfin.trans (by decide)), f32Units, hmag, hvalue, withSign_natAbs_div]

theorem isF32_intCast {n : ℤ} (hn : |n| ≤ 2 ^ 24) : IsF32 n := by
  simpa using isF32_dyadic (e := 0) hn (by omega)

/-- The numerals of this file's bounds: y = k / 2^e. -/
theorem isF32_of_eq {y : ℚ} (k : ℤ) (e : Nat) (hy : y = k / 2 ^ e := by norm_num)
    (hk : |k| ≤ 2 ^ 24 := by norm_num) (he : e ≤ 126 := by norm_num) : IsF32 y := hy ▸ isF32_dyadic hk he

/-! ### One rounding of a number within 256 -/

section OneRounding
variable {x y : ℚ} {c : F32} (h : RoundsTo x c) (hx : |x| ≤ 256)
include h hx

theorem isFinite_and_nearest_of_roundsTo :
    isFinite c = true ∧ ∀ y, IsF32 y → |f32Value c - x| ≤ |y - x| := by
  rw [RoundsTo, if_pos (hx.trans_lt (by norm_num))] at h
  obtain ⟨hfin, hnear⟩ := h
  exact ⟨hfin, by rintro _ ⟨m, hm, rfl⟩; exact (hnear m hm).1⟩

theorem isFinite_of_roundsTo : isFinite c = true := (isFinite_and_nearest_of_roundsTo h hx).1

theorem abs_roundsTo_sub_le (hy : IsF32 y) : |f32Value c - x| ≤ |y - x| :=
  (isFinite_and_nearest_of_roundsTo h hx).2 y hy

/-- Rounding crosses no binary32 value. -/
theorem roundsTo_le (hy : IsF32 y) (hxy : x ≤ y) : f32Value c ≤ y := by
  have hnear := abs_roundsTo_sub_le h hx hy
  rw [abs_of_nonneg (sub_nonneg.2 hxy)] at hnear
  linarith [le_abs_self (f32Value c - x)]

theorem le_roundsTo (hy : IsF32 y) (hyx : y ≤ x) : y ≤ f32Value c := by
  have hnear := abs_roundsTo_sub_le h hx hy
  rw [abs_of_nonpos (sub_nonpos.2 hyx)] at hnear
  linarith [neg_abs_le (f32Value c - x)]

/-- A binary32 value is not rounded. -/
theorem roundsTo_exact (hexact : IsF32 x) : f32Value c = x :=
  le_antisymm (roundsTo_le h hx hexact le_rfl) (le_roundsTo h hx hexact le_rfl)

end OneRounding

/-! ### How far rounding moves a number -/

/-- A magnitude number's step is 2^23 times smaller than what it stands for, or one unit. -/
theorem step_le_unitsOf (mag : Nat) : 2 ^ 23 * 2 ^ (mag / 2 ^ 23 - 1) ≤ unitsOf mag + 2 ^ 23 := by
  unfold unitsOf
  split
  next hsubnormal => rw [hsubnormal, Nat.zero_sub, pow_zero, mul_one]; exact Nat.le_add_left _ _
  next => exact (Nat.mul_le_mul_right _ (by omega)).trans (Nat.le_add_right _ _)

/-- Two neighbouring magnitude numbers with x units between them. -/
theorem exists_unitsOf_lt_le {x : ℚ} (hpos : 0 < x) : ∃ mag, (unitsOf mag : ℚ) < x ∧ x ≤ unitsOf (mag + 1) := by
  have hmono : StrictMono fun mag => (unitsOf mag : ℚ) := fun _ _ h => unitsOf_cast_lt h
  have htop : Filter.Tendsto (fun mag => (unitsOf mag : ℚ)) Filter.atTop Filter.atTop :=
    tendsto_natCast_atTop_atTop.comp unitsOf_strictMono.tendsto_atTop
  exact hmono.exists_between_of_tendsto_atTop htop (by simpa using hpos)

theorem isF32_unitsOf {mag : Nat} (h : mag < infMag) : IsF32 (unitsOf mag / 2 ^ 149) := by
  have hmag : f32Mag (f32Pack false mag) = mag := f32Mag_f32Pack _ (h.trans (by decide))
  refine ⟨f32Pack false mag, (isFinite_iff _).2 (hmag.trans_lt h), ?_⟩
  rw [f32Value_eq_withSign, f32Neg_f32Pack _ (h.trans (by decide)), f32Units, hmag]
  rfl

/-- Below a positive number within 256 lies a binary32 value, less than one step away: 2^-23 of it, or one unit. -/
theorem exists_isF32_near {x : ℚ} (hpos : 0 < x) (hx : x ≤ 256) :
    ∃ y, IsF32 y ∧ |y - x| ≤ x / 2 ^ 23 + 1 / 2 ^ 149 := by
  obtain ⟨mag, hlow, hhigh⟩ := exists_unitsOf_lt_le (x := x * 2 ^ 149) (by positivity)
  have hfin : mag < infMag := by
    by_contra hinf
    have hunits := unitsOf_cast_le (Nat.le_of_not_lt hinf)
    rw [unitsOf_infMag] at hunits
    push_cast at hunits
    linarith
  have hstep : (2 ^ 23 * 2 ^ (mag / 2 ^ 23 - 1) : ℚ) ≤ unitsOf mag + 2 ^ 23 := by
    exact_mod_cast step_le_unitsOf mag
  rw [unitsOf_succ] at hhigh
  push_cast at hhigh
  refine ⟨_, isF32_unitsOf hfin, ?_⟩
  rw [abs_sub_comm, abs_of_nonneg (sub_nonneg.2 ((div_le_iff₀ (by positivity)).2 hlow.le))]
  linarith

/-- One rounding moves a number within 256 by no more than 2^-23 of it, or by one unit. -/
theorem abs_roundsTo_sub_le_step {x : ℚ} {c : F32} (h : RoundsTo x c) (hx : |x| ≤ 256) :
    |f32Value c - x| ≤ |x| / 2 ^ 23 + 1 / 2 ^ 149 := by
  obtain hneg | rfl | hpos := lt_trichotomy x 0
  · obtain ⟨y, hy, hnear⟩ := exists_isF32_near (neg_pos.2 hneg) (by rwa [abs_of_neg hneg] at hx)
    refine (abs_roundsTo_sub_le h hx hy.neg).trans ?_
    rwa [abs_of_neg hneg, ← abs_neg, neg_sub, sub_neg_eq_add, add_comm, ← sub_neg_eq_add]
  · rw [roundsTo_exact h hx (isF32_of_eq 0 0)]
    norm_num
  · obtain ⟨y, hy, hnear⟩ := exists_isF32_near hpos (by rwa [abs_of_pos hpos] at hx)
    exact (abs_roundsTo_sub_le h hx hy).trans (by rwa [abs_of_pos hpos])

/-! ### Integers and the constants of R121 -/

/-- An integer of at most 24 bits converts exactly (R121). -/
theorem f32Value_f32OfInt {n : ℤ} (hn : |n| ≤ 256) : f32Value (f32OfInt n) = n :=
  roundsTo_exact (f32OfInt_roundsTo n) (by exact_mod_cast hn) (isF32_intCast (hn.trans (by norm_num)))

theorem isFinite_f32OfInt {n : ℤ} (hn : |n| ≤ 256) : isFinite (f32OfInt n) = true :=
  isFinite_of_roundsTo (f32OfInt_roundsTo n) (by exact_mod_cast hn)

theorem f32Value_zero : f32Value f32Zero = 0 := (f32Value_eq_zero_iff _).2 (by decide)

theorem f32Value_of_eq_f32OfInt {a : F32} {n : ℤ} (ha : a = f32OfInt n) (hn : |n| ≤ 256) :
    f32Value a = n := ha ▸ f32Value_f32OfInt hn

theorem f32Value_one : f32Value f32One = 1 := by
  simpa using f32Value_of_eq_f32OfInt (a := f32One) (n := 1) (by decide +kernel) (by norm_num)

theorem f32Value_two : f32Value f32Two = 2 := by
  simpa using f32Value_of_eq_f32OfInt (a := f32Two) (n := 2) (by decide +kernel) (by norm_num)

theorem f32Value_four : f32Value f32Four = 4 := by
  simpa using f32Value_of_eq_f32OfInt (a := f32Four) (n := 4) (by decide +kernel) (by norm_num)

theorem f32Value_six : f32Value f32Six = 6 := by
  simpa using f32Value_of_eq_f32OfInt (a := f32Six) (n := 6) (by decide +kernel) (by norm_num)

theorem f32Value_byte : f32Value f32Byte = 255 := by
  simpa using f32Value_of_eq_f32OfInt (a := f32Byte) (n := 255) (by decide +kernel) (by norm_num)

/-! ### The ranges [0, 1) and [0, 1] -/

theorem hueInRange_iff (h : F32) :
    hueInRange h = true ↔ isFinite h = true ∧ 0 ≤ f32Value h ∧ f32Value h < 1 := by
  have hzero : isFinite f32Zero = true := by decide
  have hone : isFinite f32One = true := by decide
  have hvalues (hfin : isFinite h = true) :
      (flt h f32Zero = false ∧ flt h f32One = true) ↔ 0 ≤ f32Value h ∧ f32Value h < 1 := by
    rw [flt_eq_false_iff_of_isFinite hfin hzero, flt_iff_f32Value_lt hfin hone, f32Value_zero, f32Value_one]
  simp only [hueInRange, Bool.and_eq_true, Bool.not_eq_true', and_assoc]
  constructor
  · rintro ⟨hnan, hlow, hhigh⟩
    have hkey : f32Key f32Zero ≤ f32Key h := by
      simpa [flt, hnan, show isNaN f32Zero = false by decide] using hlow
    have hfin := isFinite_of_between hkey hzero hhigh
    exact ⟨hfin, (hvalues hfin).1 ⟨hlow, hhigh⟩⟩
  · rintro ⟨hfin, hrange⟩
    exact ⟨(not_special_of_isFinite hfin).1, (hvalues hfin).2 hrange⟩

theorem inUnit_of_f32Value {a : F32} (hfin : isFinite a = true) (hlow : 0 ≤ f32Value a) (hhigh : f32Value a ≤ 1) :
    inUnit a = true := by
  have hzero : flt a f32Zero = false := by
    rwa [flt_eq_false_iff_of_isFinite hfin (by decide), f32Value_zero]
  have hone : flt f32One a = false := by
    rwa [flt_eq_false_iff_of_isFinite (by decide) hfin, f32Value_one]
  simp [inUnit, not_special_of_isFinite hfin, hzero, hone]

/-! ### ToByte (R120) -/

section ToByte
variable {x : F32}

theorem toByte_of_isNaN (h : isNaN x = true) : toByte x = 0 := by simp [toByte, h]

theorem toByte_of_ge_byte (hnan : isNaN x = false) (h : flt x f32Byte = false) : toByte x = 255 := by
  simp [toByte, hnan, h]

theorem toByte_of_le_zero (hnan : isNaN x = false) (h : flt f32Zero x = false) : toByte x = 0 := by
  have hbyte : flt x f32Byte = true := by
    rw [flt_eq_true_iff]
    refine ⟨hnan, by decide, lt_of_le_of_lt (b := f32Key f32Zero) ?_ (by decide)⟩
    simpa [flt, hnan, show isNaN f32Zero = false by decide] using h
  simp [toByte, hnan, h, hbyte]

/-- Between the two, `toByte` is the integer part. -/
theorem toByte_of_between (hlow : flt f32Zero x = true) (hhigh : flt x f32Byte = true) :
    ((toByte x).toNat : ℚ) ≤ f32Value x ∧ f32Value x < (toByte x).toNat + 1 := by
  have hfin : isFinite x = true :=
    isFinite_of_between ((flt_eq_true_iff _ _).1 hlow).2.2.le (by decide) hhigh
  have hpos : 0 < f32Value x := by rwa [flt_iff_f32Value_lt (by decide) hfin, f32Value_zero] at hlow
  have hlt : f32Value x < 255 := by rwa [flt_iff_f32Value_lt hfin (by decide), f32Value_byte] at hhigh
  have hvalue : f32Value x = f32Units x / 2 ^ 149 := by rw [← abs_f32Value, abs_of_pos hpos]
  have hunits : f32Units x < 255 * 2 ^ 149 := by
    rw [hvalue, div_lt_iff₀ (by positivity)] at hlt; exact_mod_cast hlt
  have hfloor : (toByte x).toNat = ⌊f32Value x⌋₊ := by
    have hquotient := Nat.floor_div_eq_div (K := ℚ) (f32Units x) (2 ^ 149)
    rw [Nat.cast_pow, Nat.cast_ofNat, ← hvalue] at hquotient
    simp only [toByte, not_special_of_isFinite hfin, hlow, hhigh, Bool.not_true, Bool.false_eq_true, if_false]
    rw [BitVec.toNat_ofNat, hquotient]
    exact Nat.mod_eq_of_lt (((Nat.div_lt_iff_lt_mul (by positivity)).2 hunits).trans (by norm_num))
  rw [hfloor]
  exact ⟨Nat.floor_le hpos.le, Nat.lt_floor_add_one _⟩

end ToByte

/-- Settles O26: the four cases of `toByte`, the last with the value of a positive number as its units. -/
theorem toByteTruncatesAndSaturates : Obligations.ToByteTruncatesAndSaturates :=
  fun _ => ⟨toByte_of_isNaN, toByte_of_ge_byte, toByte_of_le_zero, toByte_of_between⟩

end Sys2Proof.Machine

/-! ## The colour commands

RGB2HSV and HSV2RGB in IDLE are `toHsv` and `toRgb` of their operands. -/
namespace Sys2Proof.Machine
open Sys2Proof.Statements

theorem exec_rgb2hsv_idle {s : State} (hidle : s.pos = .idle) (idx : Nat) :
    exec (.rgb2hsv idx) s = .next (withResHsv (toHsv s.opnd.opaRgb) s) := whenIdle_idle hidle _

theorem exec_hsv2rgb_drawn {s : State} (hidle : s.pos = .idle) (hdrawn : hueDrawn s.params (opaHsv s) = true)
    (idx : Nat) :
    exec (.hsv2rgb idx) s = .next { withResRgb (drawnRgb s.draws) s with draws := s.draws + 3 } :=
  (whenIdle_idle hidle _).trans (if_pos hdrawn)

theorem exec_hsv2rgb_computed {s : State} (hidle : s.pos = .idle) (hdrawn : ¬ hueDrawn s.params (opaHsv s) = true)
    (idx : Nat) : exec (.hsv2rgb idx) s = .next (withResRgb (toRgb (opaHsv s)) s) :=
  (whenIdle_idle hidle _).trans (if_neg hdrawn)

/-! ### Largest and smallest channel as integers -/

theorem rgbMin_le_rgbMax (c : Rgb8) : rgbMin c ≤ rgbMax c := by unfold rgbMin rgbMax; omega

theorem rgbMax_cast (c : Rgb8) : (rgbMax c : ℤ) = max (c.r.toNat : ℤ) (max c.g.toNat c.b.toNat) := by
  simp [rgbMax]

theorem rgbMin_cast (c : Rgb8) : (rgbMin c : ℤ) = min (c.r.toNat : ℤ) (min c.g.toNat c.b.toNat) := by
  simp [rgbMin]

theorem rgbChroma_cast (c : Rgb8) : (rgbChroma c : ℤ) = rgbMax c - rgbMin c := by
  rw [rgbChroma, Nat.cast_sub (rgbMin_le_rgbMax c)]

/-- Settles O10: the model's natural numbers for M, m and chroma are the statement's integers. -/
theorem rgb2hsvResult : Obligations.Rgb2hsvResult := by
  intro idx s hidle
  simp only [exec_rgb2hsv_idle hidle, ← rgbMax_cast, ← rgbMin_cast, ← rgbChroma_cast, Nat.cast_inj,
    Nat.cast_eq_zero]
  rfl

/-! ### HSV2RGB -/

/-- Bits [30:0] are the magnitude number, so clearing the sign shows a zero. -/
theorem and_magMask_eq_zero_iff (a : F32) : a &&& 0x7FFFFFFF#32 = 0 ↔ isZero a = true := by
  have hmask : (a &&& 0x7FFFFFFF#32).toNat = f32Mag a := Nat.and_two_pow_sub_one_eq_mod a.toNat 31
  rw [isZero_iff, ← hmask, ← BitVec.toNat_inj]
  rfl

theorem toRgb_of_isZero {x : Hsv} (h : isZero x.s = true) :
    toRgb x = { r := scaledByte x.v, g := scaledByte x.v, b := scaledByte x.v } := if_pos h

theorem toRgb_of_not_isZero {x : Hsv} (h : ¬ isZero x.s = true) : toRgb x = toRgbChromatic x := if_neg h

theorem hueSector_lt (h6 : F32) : hueSector h6 < 6 := by unfold hueSector; split <;> omega

/-- The six rows of R125 in bytes, as a list. -/
theorem getElem?_sectorBytes {n : Nat} (hn : n < 6) (v p q t : F32) :
    ([⟨scaledByte v, scaledByte t, scaledByte p⟩, ⟨scaledByte q, scaledByte v, scaledByte p⟩,
      ⟨scaledByte p, scaledByte v, scaledByte t⟩, ⟨scaledByte p, scaledByte q, scaledByte v⟩,
      ⟨scaledByte t, scaledByte p, scaledByte v⟩, ⟨scaledByte v, scaledByte p, scaledByte q⟩] : List Rgb8)[n]? =
    some (let row := sectorRow n v p q t
      { r := scaledByte row.1, g := scaledByte row.2.1, b := scaledByte row.2.2 }) := by
  interval_cases n <;> rfl

/-- Settles O11: the grey or, sector by sector, the row of the formula. -/
theorem hsv2rgbResult : Obligations.Hsv2rgbResult := by
  intro idx s hidle
  dsimp only
  rw [Ne, and_magMask_eq_zero_iff]
  refine ⟨fun hgrey => ?_, fun hchromatic hhue => ?_⟩
  · have hdrawn : ¬ hueDrawn s.params (opaHsv s) = true := by simp [hueDrawn, opaHsv, hgrey]
    rw [exec_hsv2rgb_computed hidle hdrawn, toRgb_of_isZero hgrey]
    rfl
  · have hdrawn : ¬ hueDrawn s.params (opaHsv s) = true := by
      obtain h | h := hhue <;> simp [hueDrawn, opaHsv, h]
    refine ⟨_, ?_, exec_hsv2rgb_computed hidle hdrawn idx⟩
    rw [toRgb_of_not_isZero hchromatic]
    exact getElem?_sectorBytes (hueSector_lt _) _ _ _ _

/-- Settles O12: where the hue is drawn, the result is three free bytes. -/
theorem hsv2rgbDrawnResult : Obligations.Hsv2rgbDrawnResult := by
  intro idx s hidle hchromatic hunspecified hout
  rw [Ne, and_magMask_eq_zero_iff] at hchromatic
  exact exec_hsv2rgb_drawn hidle (by simp [hueDrawn, opaHsv, hchromatic, hunspecified, hout]) idx

end Sys2Proof.Machine

/-! ## The ranges of to_hsv and of the sector

Both follow from rounding crossing no binary32 value: each bound of a range is such a value, and where a bound is
excluded, the exact result keeps a distance from it that a nearby binary32 value marks off. -/
namespace Sys2Proof.Machine
open Sys2Proof.Statements

/-- A rounding within 7 moves the number by no more than this. -/
def smallStep : ℚ := 1 / 2 ^ 20

theorem abs_roundsTo_sub_le_smallStep {x : ℚ} {c : F32} (h : RoundsTo x c) (hx : |x| ≤ 7) :
    |f32Value c - x| ≤ smallStep := by
  have hstep := abs_roundsTo_sub_le_step h (hx.trans (by norm_num))
  unfold smallStep
  linarith

/-- A rounding within [0, 1] stays there. -/
theorem roundsTo_mem_unit {x : ℚ} {c : F32} (h : RoundsTo x c) (hx : 0 ≤ x ∧ x ≤ 1) :
    isFinite c = true ∧ 0 ≤ f32Value c ∧ f32Value c ≤ 1 := by
  have habs : |x| ≤ 256 := abs_le.2 ⟨by linarith, by linarith⟩
  exact ⟨isFinite_of_roundsTo h habs, le_roundsTo h habs (isF32_of_eq 0 0) hx.1,
    roundsTo_le h habs (isF32_of_eq 1 0) hx.2⟩

theorem fdiv_f32OfInt_roundsTo {n d : ℤ} (hn : |n| ≤ 256) (hd : |d| ≤ 256) (hne : d ≠ 0) :
    RoundsTo (n / d) (fdiv (f32OfInt n) (f32OfInt d)) := by
  have h := fdiv_roundsTo (isFinite_f32OfInt hn) (isFinite_f32OfInt hd)
    (by rw [f32Value_f32OfInt hd]; exact_mod_cast hne)
  rwa [f32Value_f32OfInt hn, f32Value_f32OfInt hd] at h

/-! ### Value and saturation (R122) -/

theorem toHsv_h (c : Rgb8) : (toHsv c).h = hsvHue c := by rw [toHsv]
theorem toHsv_s (c : Rgb8) : (toHsv c).s = hsvSaturation c := by rw [toHsv]
theorem toHsv_v (c : Rgb8) : (toHsv c).v = hsvValue c := by rw [toHsv]

section Channels
variable (c : Rgb8)

theorem rgbMax_le : rgbMax c ≤ 255 := by unfold rgbMax; omega

theorem rgbChroma_le_rgbMax : rgbChroma c ≤ rgbMax c := Nat.sub_le _ _

theorem hsvValue_roundsTo : RoundsTo (rgbMax c / 255) (hsvValue c) := by
  have hmax := rgbMax_le c
  have h := fdiv_f32OfInt_roundsTo (n := rgbMax c) (d := 255) (by rw [abs_le]; omega) (by norm_num) (by norm_num)
  rwa [show f32OfInt 255 = f32Byte by decide +kernel] at h

theorem hsvValue_exact_mem_unit : 0 ≤ (rgbMax c / 255 : ℚ) ∧ (rgbMax c / 255 : ℚ) ≤ 1 := by
  have hmax : (rgbMax c : ℚ) ≤ 255 := by exact_mod_cast rgbMax_le c
  exact ⟨by positivity, by linarith⟩

variable {c}

theorem hsvSaturation_roundsTo (h : rgbMax c ≠ 0) : RoundsTo (rgbChroma c / rgbMax c) (hsvSaturation c) := by
  have hmax := rgbMax_le c
  have hchroma := rgbChroma_le_rgbMax c
  rw [hsvSaturation, if_neg h]
  exact fdiv_f32OfInt_roundsTo (n := rgbChroma c) (d := rgbMax c) (by rw [abs_le]; omega) (by rw [abs_le]; omega)
    (by omega)

theorem hsvSaturation_exact_mem_unit :
    0 ≤ (rgbChroma c / rgbMax c : ℚ) ∧ (rgbChroma c / rgbMax c : ℚ) ≤ 1 :=
  ⟨by positivity, div_le_one_of_le₀ (by exact_mod_cast rgbChroma_le_rgbMax c) (by positivity)⟩

end Channels

/-! ### Hue (R123) -/

/-- The sector value of R123 before any rounding. -/
def exactSixths (c : Rgb8) : ℚ :=
  let r : ℚ := c.r.toNat
  let g : ℚ := c.g.toNat
  let b : ℚ := c.b.toNat
  if rgbMax c = c.r.toNat then (g - b) / rgbChroma c
  else if rgbMax c = c.g.toNat then (b - r) / rgbChroma c + 2
  else (r - g) / rgbChroma c + 4

/-- Two channels as integers differ by no more than the chroma. -/
theorem abs_channel_sub_le {c : Rgb8} {x y : Byte} (hx : x = c.r ∨ x = c.g ∨ x = c.b)
    (hy : y = c.r ∨ y = c.g ∨ y = c.b) : |(x.toNat - y.toNat : ℤ)| ≤ rgbChroma c := by
  rw [rgbChroma_cast, rgbMax_cast, rgbMin_cast, abs_le]
  obtain rfl | rfl | rfl := hx <;> obtain rfl | rfl | rfl := hy <;> omega

section Hue
variable {c : Rgb8} (hchroma : rgbChroma c ≠ 0)
include hchroma

theorem one_le_rgbChroma : (1 : ℚ) ≤ rgbChroma c := by exact_mod_cast Nat.pos_of_ne_zero hchroma

theorem abs_channelQuotient_le {n : ℤ} (hn : |n| ≤ rgbChroma c) : |(n / rgbChroma c : ℚ)| ≤ 1 := by
  rw [abs_div, Nat.abs_cast]
  exact div_le_one_of_le₀ (by exact_mod_cast hn) (by positivity)

theorem channelQuotient_roundsTo {n : ℤ} (hn : |n| ≤ rgbChroma c) :
    RoundsTo (n / rgbChroma c) (fdiv (f32OfInt n) (f32OfInt (rgbChroma c))) := by
  have hmax := rgbMax_le c
  have hle := rgbChroma_le_rgbMax c
  exact fdiv_f32OfInt_roundsTo (d := rgbChroma c) (hn.trans (by omega)) (by rw [abs_le]; omega) (by omega)

/-- A negative quotient of a channel difference by the chroma keeps away from zero. -/
theorem channelQuotient_le_of_neg {n : ℤ} (hneg : (n / rgbChroma c : ℚ) < 0) : (n / rgbChroma c : ℚ) ≤ -1 / 256 := by
  have hone := one_le_rgbChroma hchroma
  have hle : (rgbChroma c : ℚ) ≤ 255 := by exact_mod_cast (rgbChroma_le_rgbMax c).trans (rgbMax_le c)
  have hn : (n : ℚ) < 0 := by rwa [div_lt_iff₀ (by linarith), zero_mul] at hneg
  have hn' : (n : ℚ) ≤ -1 := by
    exact_mod_cast Int.le_sub_one_of_lt (show n < 0 by exact_mod_cast hn)
  rw [div_le_iff₀ (by linarith)]
  linarith

end Hue

/-- A sector value near the exact one, on its side of zero, and away from zero where that is negative. -/
structure NearSixths (a : F32) (x : ℚ) : Prop where
  finite : isFinite a = true
  near : |f32Value a - x| ≤ 2 * smallStep
  low : -1 ≤ f32Value a
  high : f32Value a ≤ 5
  nonneg : 0 ≤ x → 0 ≤ f32Value a
  neg : x < 0 → f32Value a ≤ -1 / 256

/-- The branch of red: the quotient itself. -/
theorem nearSixths_quotient {a : F32} {x : ℚ} (h : RoundsTo x a) (hx : |x| ≤ 1) (hneg : x < 0 → x ≤ -1 / 256) :
    NearSixths a x := by
  have hwide : |x| ≤ 256 := hx.trans (by norm_num)
  obtain ⟨hlow, hhigh⟩ := abs_le.1 hx
  exact
    { finite := isFinite_of_roundsTo h hwide
      near := (abs_roundsTo_sub_le_smallStep h (hx.trans (by norm_num))).trans (by norm_num [smallStep])
      low := le_roundsTo h hwide (isF32_of_eq (-1) 0) hlow
      high := roundsTo_le h hwide (isF32_of_eq 5 0) (hhigh.trans (by norm_num))
      nonneg := le_roundsTo h hwide (isF32_of_eq 0 0)
      neg := fun hx => roundsTo_le h hwide (isF32_of_eq (-1) 8) (hneg hx) }

/-- The branches of green and blue: the quotient plus 2 or 4. -/
theorem nearSixths_offset {a k : F32} {x : ℚ} {j : ℤ} (h : RoundsTo x a) (hx : |x| ≤ 1) (hk : isFinite k = true)
    (hvalue : f32Value k = j) (hj : 1 ≤ j ∧ j ≤ 4) : NearSixths (fadd a k) (x + j) := by
  have hwide : |x| ≤ 256 := hx.trans (by norm_num)
  have hnear := abs_le.1 (abs_roundsTo_sub_le_smallStep h (hx.trans (by norm_num)))
  have hlow : -1 ≤ f32Value a := le_roundsTo h hwide (isF32_of_eq (-1) 0) (abs_le.1 hx).1
  have hhigh : f32Value a ≤ 1 := roundsTo_le h hwide (isF32_of_eq 1 0) (abs_le.1 hx).2
  have hsum := fadd_roundsTo (isFinite_of_roundsTo h hwide) hk
  rw [hvalue] at hsum
  have hj' : (1 : ℚ) ≤ j ∧ (j : ℚ) ≤ 4 := by exact_mod_cast hj
  have hsmall : |f32Value a + j| ≤ 7 := abs_le.2 ⟨by linarith, by linarith⟩
  have hwide' : |f32Value a + j| ≤ 256 := hsmall.trans (by norm_num)
  have hstep := abs_le.1 (abs_roundsTo_sub_le_smallStep hsum hsmall)
  have hpos : 0 ≤ f32Value (fadd a k) := le_roundsTo hsum hwide' (isF32_of_eq 0 0) (by linarith)
  exact
    { finite := isFinite_of_roundsTo hsum hwide'
      near := abs_le.2 ⟨by linarith, by linarith⟩
      low := by linarith
      high := roundsTo_le hsum hwide' (isF32_of_eq 5 0) (by linarith)
      nonneg := fun _ => hpos
      neg := fun hneg => by linarith [(abs_le.1 hx).1] }

theorem nearSixths_hueSixths {c : Rgb8} (hchroma : rgbChroma c ≠ 0) : NearSixths (hueSixths c) (exactSixths c) := by
  have hred := abs_channel_sub_le (c := c) (x := c.g) (y := c.b) (by simp) (by simp)
  have hgreen := abs_channel_sub_le (c := c) (x := c.b) (y := c.r) (by simp) (by simp)
  have hblue := abs_channel_sub_le (c := c) (x := c.r) (y := c.g) (by simp) (by simp)
  unfold hueSixths exactSixths
  dsimp only
  split_ifs
  · exact_mod_cast nearSixths_quotient (channelQuotient_roundsTo hchroma hred) (abs_channelQuotient_le hchroma hred)
      (channelQuotient_le_of_neg hchroma)
  · exact_mod_cast nearSixths_offset (j := 2) (channelQuotient_roundsTo hchroma hgreen)
      (abs_channelQuotient_le hchroma hgreen) (by decide) f32Value_two (by norm_num)
  · exact_mod_cast nearSixths_offset (j := 4) (channelQuotient_roundsTo hchroma hblue)
      (abs_channelQuotient_le hchroma hblue) (by decide) f32Value_four (by norm_num)

/-- The sector value of R123 as a position on the circle of six sectors, before any rounding. -/
def wrappedSixths (c : Rgb8) : ℚ := if exactSixths c < 0 then exactSixths c + 6 else exactSixths c

/-- A hue in [0, 1), near the sixth of a position. -/
structure NearTurn (a : F32) (x : ℚ) : Prop where
  finite : isFinite a = true
  nonneg : 0 ≤ f32Value a
  lt_one : f32Value a < 1
  near : |6 * f32Value a - x| ≤ 14 * smallStep

section Turn
variable {a : F32} {x : ℚ} (h : NearSixths a x)
include h

theorem abs_sixth_le_one : |f32Value a / 6| ≤ 1 :=
  abs_le.2 ⟨by linarith [h.low], by linarith [h.high]⟩

theorem fdiv_six_roundsTo : RoundsTo (f32Value a / 6) (fdiv a f32Six) := by
  have hround := fdiv_roundsTo h.finite (b := f32Six) (by decide) (by rw [f32Value_six]; norm_num)
  rwa [f32Value_six] at hround

theorem isFinite_fdiv_six : isFinite (fdiv a f32Six) = true :=
  isFinite_of_roundsTo (fdiv_six_roundsTo h) ((abs_sixth_le_one h).trans (by norm_num))

theorem flt_fdiv_six_zero_iff : flt (fdiv a f32Six) f32Zero = true ↔ f32Value (fdiv a f32Six) < 0 := by
  rw [flt_iff_f32Value_lt (isFinite_fdiv_six h) (by decide), f32Value_zero]

theorem abs_fdiv_six_sub_le : |f32Value (fdiv a f32Six) - f32Value a / 6| ≤ smallStep :=
  abs_roundsTo_sub_le_smallStep (fdiv_six_roundsTo h) ((abs_sixth_le_one h).trans (by norm_num))

/-- A sector value that is not negative needs no wrap. -/
theorem nearTurn_of_nonneg (hx : 0 ≤ x) : ¬ flt (fdiv a f32Six) f32Zero = true ∧ NearTurn (fdiv a f32Six) x := by
  have hround := fdiv_six_roundsTo h
  have hwide : |f32Value a / 6| ≤ 256 := (abs_sixth_le_one h).trans (by norm_num)
  have hlow : 0 ≤ f32Value (fdiv a f32Six) :=
    le_roundsTo hround hwide (isF32_of_eq 0 0) (by linarith [h.nonneg hx])
  have hhigh : f32Value (fdiv a f32Six) ≤ 7 / 8 :=
    roundsTo_le hround hwide (isF32_of_eq 7 3) (by linarith [h.high])
  have hnear := abs_le.1 h.near
  have hstep := abs_le.1 (abs_fdiv_six_sub_le h)
  rw [flt_fdiv_six_zero_iff h, not_lt]
  exact ⟨hlow,
    { finite := isFinite_fdiv_six h
      nonneg := hlow
      lt_one := by linarith
      near := abs_le.2 ⟨by linarith, by linarith⟩ }⟩

/-- A negative sector value is far enough below zero for the wrapped hue to stay below 1. -/
theorem nearTurn_of_neg (hx : x < 0) :
    flt (fdiv a f32Six) f32Zero = true ∧ NearTurn (fadd (fdiv a f32Six) f32One) (x + 6) := by
  have hround := fdiv_six_roundsTo h
  have hwide : |f32Value a / 6| ≤ 256 := (abs_sixth_le_one h).trans (by norm_num)
  have hlow : -1 ≤ f32Value (fdiv a f32Six) :=
    le_roundsTo hround hwide (isF32_of_eq (-1) 0) (by linarith [h.low])
  have hhigh : f32Value (fdiv a f32Six) ≤ -1 / 2048 :=
    roundsTo_le hround hwide (isF32_of_eq (-1) 11) (by linarith [h.neg hx])
  have hsum := fadd_roundsTo (isFinite_fdiv_six h) (b := f32One) (by decide)
  rw [f32Value_one] at hsum
  have hsmall : |f32Value (fdiv a f32Six) + 1| ≤ 7 := abs_le.2 ⟨by linarith, by linarith⟩
  have hwide' : |f32Value (fdiv a f32Six) + 1| ≤ 256 := hsmall.trans (by norm_num)
  have hwrapped : f32Value (fadd (fdiv a f32Six) f32One) ≤ 2047 / 2048 :=
    roundsTo_le hsum hwide' (isF32_of_eq 2047 11) (by linarith)
  have hnear := abs_le.1 h.near
  have hstep := abs_le.1 (abs_fdiv_six_sub_le h)
  have hstep' := abs_le.1 (abs_roundsTo_sub_le_smallStep hsum hsmall)
  rw [flt_fdiv_six_zero_iff h]
  exact ⟨by linarith,
    { finite := isFinite_of_roundsTo hsum hwide'
      nonneg := le_roundsTo hsum hwide' (isF32_of_eq 0 0) (by linarith)
      lt_one := by linarith
      near := abs_le.2 ⟨by linarith, by linarith⟩ }⟩

end Turn

theorem nearTurn_hsvHue {c : Rgb8} (hchroma : rgbChroma c ≠ 0) : NearTurn (hsvHue c) (wrappedSixths c) := by
  have hsixths := nearSixths_hueSixths hchroma
  simp only [hsvHue, if_neg hchroma, wrappedSixths]
  obtain hneg | hpos := lt_or_ge (exactSixths c) 0
  · obtain ⟨hwrap, hturn⟩ := nearTurn_of_neg hsixths hneg
    rwa [if_pos hwrap, if_pos hneg]
  · obtain ⟨hstay, hturn⟩ := nearTurn_of_nonneg hsixths hpos
    rwa [if_neg hstay, if_neg hpos.not_gt]

theorem hsvHue_of_grey {c : Rgb8} (h : rgbChroma c = 0) : hsvHue c = f32Zero := if_pos h

theorem hsvSaturation_of_black {c : Rgb8} (h : rgbMax c = 0) : hsvSaturation c = f32Zero := if_pos h

/-- Settles O27: each of the three is one rounding, or two for the hue, of a number in its range. -/
theorem toHsvStaysInRange : Obligations.ToHsvStaysInRange := by
  intro c
  rw [toHsv_h, toHsv_s, toHsv_v]
  refine ⟨?_, ?_, ?_⟩
  · obtain hgrey | hchroma := eq_or_ne (rgbChroma c) 0
    · rw [hsvHue_of_grey hgrey]; decide
    · have hturn := nearTurn_hsvHue hchroma
      exact (hueInRange_iff _).2 ⟨hturn.finite, hturn.nonneg, hturn.lt_one⟩
  · obtain hblack | hmax := eq_or_ne (rgbMax c) 0
    · rw [hsvSaturation_of_black hblack]; decide
    · obtain ⟨hfin, hlow, hhigh⟩ := roundsTo_mem_unit (hsvSaturation_roundsTo hmax) hsvSaturation_exact_mem_unit
      exact inUnit_of_f32Value hfin hlow hhigh
  · obtain ⟨hfin, hlow, hhigh⟩ := roundsTo_mem_unit (hsvValue_roundsTo c) (hsvValue_exact_mem_unit c)
    exact inUnit_of_f32Value hfin hlow hhigh

/-! ### The sector (R125, R128) -/

/-- floor, as the model divides units, is the floor of the value. -/
theorem floorInt_eq_floor (a : F32) : floorInt a = ⌊f32Value a⌋ := by
  have h := Rat.floor_intCast_div_natCast (f32Int a) (2 ^ 149)
  push_cast at h
  exact h.symm

/-- From 1/2 on, every number is a multiple of 2^-24. -/
theorem exists_unitsOf_eq_mul {mag : Nat} (h : 126 * 2 ^ 23 ≤ mag) : ∃ k, unitsOf mag = k * 2 ^ 125 := by
  have hexp : 126 ≤ mag / 2 ^ 23 := by omega
  rw [unitsOf, if_neg (by omega), show mag / 2 ^ 23 - 1 = mag / 2 ^ 23 - 126 + 125 by omega, pow_add, ← mul_assoc]
  exact ⟨_, rfl⟩

/-- A number below a positive integer is 2^-24 below it. -/
theorem f32Value_le_of_lt_natCast {a : F32} {n : Nat} (hn : 1 ≤ n) (h : f32Value a < n) :
    f32Value a ≤ n - 1 / 2 ^ 24 := by
  have hn' : (1 : ℚ) ≤ n := by exact_mod_cast hn
  have habs : f32Value a ≤ f32Units a / 2 ^ 149 := (le_abs_self _).trans_eq (abs_f32Value a)
  obtain hsmall | hbig := lt_or_ge (f32Mag a) (126 * 2 ^ 23)
  · have hunits := unitsOf_cast_lt hsmall
    rw [show unitsOf (126 * 2 ^ 23) = 2 ^ 148 by decide +kernel] at hunits
    have hhalf : f32Value a ≤ 1 / 2 := habs.trans (by
      rw [div_le_iff₀ (by positivity)]; push_cast at hunits; exact hunits.le.trans (by norm_num))
    linarith
  · obtain hneg | hpos := lt_or_ge (f32Value a) 0
    · linarith
    obtain ⟨k, hk⟩ := exists_unitsOf_eq_mul hbig
    have hvalue : f32Value a = k / 2 ^ 24 := by
      rw [← abs_of_nonneg hpos, abs_f32Value, f32Units, hk]; push_cast; field_simp; norm_num
    rw [hvalue, div_lt_iff₀ (by positivity)] at h
    have hlt : k + 1 ≤ n * 2 ^ 24 := by exact_mod_cast h
    have hlt' : (k + 1 : ℚ) ≤ n * 2 ^ 24 := by exact_mod_cast hlt
    rw [hvalue, div_le_iff₀ (by positivity)]
    linarith

/-- A hue in [0, 1) times 6 stays below 6. -/
theorem fmul_six_mem {h : F32} (hfin : isFinite h = true) (hlow : 0 ≤ f32Value h) (hhigh : f32Value h < 1) :
    isFinite (fmul h f32Six) = true ∧ 0 ≤ f32Value (fmul h f32Six) ∧ f32Value (fmul h f32Six) < 6 ∧
    |f32Value (fmul h f32Six) - 6 * f32Value h| ≤ smallStep := by
  have hround := fmul_roundsTo hfin (b := f32Six) (by decide)
  rw [f32Value_six, mul_comm] at hround
  have hsmall : |6 * f32Value h| ≤ 7 := abs_le.2 ⟨by linarith, by linarith⟩
  have hwide : |6 * f32Value h| ≤ 256 := hsmall.trans (by norm_num)
  refine ⟨isFinite_of_roundsTo hround hwide, le_roundsTo hround hwide (isF32_of_eq 0 0) (by linarith), ?_,
    abs_roundsTo_sub_le_smallStep hround hsmall⟩
  -- 6 - 2^-21 is the binary32 value below 6, and nearer to 6 · h than 6 is
  have hbelow : f32Value h ≤ 1 - 1 / 2 ^ 24 := by
    simpa using f32Value_le_of_lt_natCast (n := 1) le_rfl (by simpa using hhigh)
  have hnear := abs_roundsTo_sub_le hround hwide (isF32_of_eq (y := 6 - 1 / 2 ^ 21) 12582911 21)
  by_contra hsix
  rw [not_lt] at hsix
  rw [abs_of_nonneg (by linarith), le_abs'] at hnear
  obtain hnear | hnear := hnear <;> linarith

theorem frac_roundsTo {h6 : F32} (hfin : isFinite h6 = true) :
    RoundsTo (f32Value h6 - hueSector h6) (fsub h6 (f32OfInt (hueSector h6))) := by
  have hsector : |(hueSector h6 : ℤ)| ≤ 256 := by have := hueSector_lt h6; rw [abs_le]; omega
  have h := fsub_roundsTo hfin (isFinite_f32OfInt hsector)
  rwa [f32Value_f32OfInt hsector] at h

section Sector
variable {h6 : F32} (hfin : isFinite h6 = true) (hlow : 0 ≤ f32Value h6) (hhigh : f32Value h6 < 6)
include hfin hlow hhigh

theorem hueSector_eq_floorInt : (hueSector h6 : ℤ) = floorInt h6 := by
  have hnonneg : 0 ≤ floorInt h6 := by rw [floorInt_eq_floor]; exact Int.floor_nonneg.2 hlow
  have hlt : floorInt h6 < 6 := by rw [floorInt_eq_floor]; exact Int.floor_lt.2 (by exact_mod_cast hhigh)
  rw [hueSector, if_pos hfin]
  omega

theorem hueSector_le_lt : (hueSector h6 : ℚ) ≤ f32Value h6 ∧ f32Value h6 < hueSector h6 + 1 := by
  have hfloor : (hueSector h6 : ℚ) = ⌊f32Value h6⌋ := by
    rw [← floorInt_eq_floor, ← hueSector_eq_floorInt hfin hlow hhigh]; rfl
  rw [hfloor]
  exact ⟨Int.floor_le _, Int.lt_floor_add_one _⟩

theorem frac_mem : hueInRange (fsub h6 (f32OfInt (hueSector h6))) = true := by
  obtain ⟨hle, hlt⟩ := hueSector_le_lt hfin hlow hhigh
  have hround := frac_roundsTo hfin
  have hbelow := f32Value_le_of_lt_natCast (n := hueSector h6 + 1) (by omega) (by exact_mod_cast hlt)
  push_cast at hbelow
  have hwide : |f32Value h6 - hueSector h6| ≤ 256 := abs_le.2 ⟨by linarith, by linarith⟩
  have hfrac := roundsTo_le hround hwide (isF32_of_eq (y := 1 - 1 / 2 ^ 24) 16777215 24) (by linarith)
  exact (hueInRange_iff _).2 ⟨isFinite_of_roundsTo hround hwide,
    le_roundsTo hround hwide (isF32_of_eq 0 0) (by linarith), hfrac.trans_lt (by norm_num)⟩

end Sector

/-- Settles O28: h · 6 is a number of [0, 6), whose floor needs no reduction, and the difference is below 1. -/
theorem sectorOfHueInRange : Obligations.SectorOfHueInRange := by
  intro h hrange
  obtain ⟨hfin, hlow, hhigh⟩ := (hueInRange_iff h).1 hrange
  obtain ⟨hfin6, hlow6, hhigh6, -⟩ := fmul_six_mem hfin hlow hhigh
  have hlt := hueSector_lt (fmul h f32Six)
  exact ⟨hfin6, (hueSector_eq_floorInt hfin6 hlow6 hhigh6).symm, by omega, frac_mem hfin6 hlow6 hhigh6⟩

end Sys2Proof.Machine

/-! ## The round trip

Before any rounding, R125 gives each channel as V(1 - S · w) with w a weight in [0, 1] that depends on the position on
the circle of six sectors alone, changes no faster than the position, and for the position of to_hsv is how far the
channel is below the largest, in chromas. So rounding, which moves each quantity by a few 2^-20, moves the product by
less than half a step of a byte, and truncation gives the channel or one less. -/
namespace Sys2Proof.Machine
open Sys2Proof.Statements

/-! ### Rounded arithmetic within [0, 1] -/

/-- a lies in [0, 1], as x does, and no further from x than e. -/
structure NearUnit (e : ℚ) (a : F32) (x : ℚ) : Prop where
  finite : isFinite a = true
  mem : 0 ≤ f32Value a ∧ f32Value a ≤ 1
  exact_mem : 0 ≤ x ∧ x ≤ 1
  near : |f32Value a - x| ≤ e

section NearUnit
variable {e e' : ℚ} {a b : F32} {x y : ℚ}

theorem NearUnit.mono (h : NearUnit e a x) (hle : e ≤ e') : NearUnit e' a x :=
  { h with near := h.near.trans hle }

/-- A rounding of y, which lies in [0, 1] and near x. -/
theorem nearUnit_of_roundsTo (h : RoundsTo y a) (hy : 0 ≤ y ∧ y ≤ 1) (hx : 0 ≤ x ∧ x ≤ 1) (hxy : |y - x| ≤ e) :
    NearUnit (e + smallStep) a x := by
  obtain ⟨hfin, hmem⟩ := roundsTo_mem_unit h hy
  have hstep := abs_le.1 (abs_roundsTo_sub_le_smallStep h (abs_le.2 ⟨by linarith, by linarith⟩))
  rw [abs_le] at hxy
  exact { finite := hfin, mem := hmem, exact_mem := hx, near := abs_le.2 ⟨by linarith, by linarith⟩ }

theorem NearUnit.one_sub (h : NearUnit e a x) : NearUnit (e + smallStep) (fsub f32One a) (1 - x) := by
  have hround := fsub_roundsTo (a := f32One) (by decide) h.finite
  rw [f32Value_one] at hround
  obtain ⟨hfin, ⟨hlow, hhigh⟩, ⟨hxlow, hxhigh⟩, hnear⟩ := h
  refine nearUnit_of_roundsTo hround ⟨by linarith, by linarith⟩ ⟨by linarith, by linarith⟩ ?_
  rwa [sub_sub_sub_cancel_left, abs_sub_comm]

theorem NearUnit.mul (ha : NearUnit e a x) (hb : NearUnit e' b y) :
    NearUnit (e + e' + smallStep) (fmul a b) (x * y) := by
  have hround := fmul_roundsTo ha.finite hb.finite
  obtain ⟨-, ⟨halow, hahigh⟩, ⟨hxlow, hxhigh⟩, hanear⟩ := ha
  obtain ⟨-, ⟨hblow, hbhigh⟩, ⟨hylow, hyhigh⟩, hbnear⟩ := hb
  refine nearUnit_of_roundsTo hround ⟨by positivity, mul_le_one₀ hahigh hblow hbhigh⟩
    ⟨by positivity, mul_le_one₀ hxhigh hylow hyhigh⟩ ?_
  calc |f32Value a * f32Value b - x * y|
      = |(f32Value a - x) * f32Value b + x * (f32Value b - y)| := by congr 1; ring
    _ ≤ |f32Value a - x| * f32Value b + x * |f32Value b - y| := by
        refine (abs_add_le _ _).trans_eq ?_
        rw [abs_mul, abs_mul, abs_of_nonneg hblow, abs_of_nonneg hxlow]
    _ ≤ e * 1 + 1 * e' := by gcongr; exact (abs_nonneg _).trans hanear
    _ = e + e' := by ring

/-- A product with 1 minus a product, the form of p, q and t in R125. -/
theorem NearUnit.dimmed {v s w : F32} {V S W : ℚ} (hv : NearUnit smallStep v V) (hs : NearUnit smallStep s S)
    (hw : NearUnit (2 * smallStep) w W) :
    NearUnit (7 * smallStep) (fmul v (fsub f32One (fmul s w))) (V * (1 - S * W)) :=
  (hv.mul (hs.mul hw).one_sub).mono (by linarith)

end NearUnit

/-- A number near X / 255 gives the byte X or the one below. -/
theorem toNat_scaledByte_of_near {a : F32} {X : Nat} (hX : X ≤ 255) (hfin : isFinite a = true)
    (hnear : |f32Value a - X / 255| ≤ 32 * smallStep) :
    (scaledByte a).toNat = X ∨ (scaledByte a).toNat + 1 = X := by
  have hX' : (X : ℚ) ≤ 255 := by exact_mod_cast hX
  have hX0 : (0 : ℚ) ≤ X := by positivity
  have hround := fmul_roundsTo hfin (b := f32Byte) (by decide)
  rw [f32Value_byte] at hround
  rw [smallStep, abs_le] at hnear
  have hwide : |f32Value a * 255| ≤ 256 := abs_le.2 ⟨by linarith, by linarith⟩
  have hstep := abs_le.1 ((abs_roundsTo_sub_le_step hround hwide).trans
    (add_le_add_left (div_le_div_of_nonneg_right hwide (by norm_num)) _))
  have hprod := isFinite_of_roundsTo hround hwide
  have hlow : (X : ℚ) - 1 / 2 < f32Value (fmul a f32Byte) := by linarith
  have hhigh : f32Value (fmul a f32Byte) < X + 1 / 2 := by linarith
  have hnan := (not_special_of_isFinite hprod).1
  unfold scaledByte
  generalize fmul a f32Byte = y at *
  by_cases htop : flt y f32Byte = true
  · by_cases hpos : flt f32Zero y = true
    · obtain ⟨hle, hlt⟩ := toByte_of_between hpos htop
      have hupper : (toByte y).toNat < X + 1 := by exact_mod_cast (by linarith : ((toByte y).toNat : ℚ) < X + 1)
      have hlower : X < (toByte y).toNat + 2 := by exact_mod_cast (by linarith : (X : ℚ) < (toByte y).toNat + 2)
      omega
    · rw [Bool.not_eq_true] at hpos
      rw [toByte_of_le_zero hnan hpos]
      rw [flt_eq_false_iff_of_isFinite (by decide) hprod, f32Value_zero] at hpos
      have hbottom : X < 1 := by exact_mod_cast (by linarith : (X : ℚ) < 1)
      exact .inl (by simp; omega)
  · rw [Bool.not_eq_true] at htop
    rw [toByte_of_ge_byte hnan htop]
    rw [flt_eq_false_iff_of_isFinite hprod (by decide), f32Value_byte] at htop
    have hX255 : 254 < X := by exact_mod_cast (by linarith : (254 : ℚ) < X)
    exact .inl (by simp; omega)

/-! ### The weights of the three channels -/

/-- Cut off to [0, 1]. -/
def clampUnit (x : ℚ) : ℚ := max (min x 1) 0

/-- How far red is below the largest channel, in chromas, at position x: w in V(1 - S · w). -/
def weightRed (x : ℚ) : ℚ := clampUnit (min (x - 1) (5 - x))

/-- The same for green. -/
def weightGreen (x : ℚ) : ℚ := clampUnit (max (1 - x) (x - 3))

/-- The same for blue. -/
def weightBlue (x : ℚ) : ℚ := clampUnit (max (3 - x) (x - 5))

theorem weightRed_eq_ite (x : ℚ) :
    weightRed x = if x ≤ 1 then 0 else if x ≤ 2 then x - 1 else if x ≤ 4 then 1 else if x ≤ 5 then 5 - x else 0 := by
  unfold weightRed clampUnit
  split_ifs <;> grind

theorem weightGreen_eq_ite (x : ℚ) :
    weightGreen x = if x ≤ 0 then 1 else if x ≤ 1 then 1 - x else if x ≤ 3 then 0 else if x ≤ 4 then x - 3 else 1 := by
  unfold weightGreen clampUnit
  split_ifs <;> grind

theorem weightBlue_eq_ite (x : ℚ) :
    weightBlue x = if x ≤ 2 then 1 else if x ≤ 3 then 3 - x else if x ≤ 5 then 0 else if x ≤ 6 then x - 5 else 1 := by
  unfold weightBlue clampUnit
  split_ifs <;> grind

theorem abs_clampUnit_sub_le (x y : ℚ) : |clampUnit x - clampUnit y| ≤ |x - y| := by
  have hmin := abs_min_sub_min_le_max x 1 y 1
  rw [sub_self, abs_zero, max_eq_left (abs_nonneg _)] at hmin
  exact (abs_max_sub_max_le_abs _ _ _).trans hmin

theorem abs_weightRed_sub_le (x y : ℚ) : |weightRed x - weightRed y| ≤ |x - y| := by
  have hmin := abs_min_sub_min_le_max (x - 1) (5 - x) (y - 1) (5 - y)
  rw [sub_sub_sub_cancel_right, sub_sub_sub_cancel_left, abs_sub_comm y, max_self] at hmin
  exact (abs_clampUnit_sub_le _ _).trans hmin

theorem abs_weightGreen_sub_le (x y : ℚ) : |weightGreen x - weightGreen y| ≤ |x - y| := by
  have hmax := abs_max_sub_max_le_max (1 - x) (x - 3) (1 - y) (y - 3)
  rw [sub_sub_sub_cancel_right, sub_sub_sub_cancel_left, abs_sub_comm y, max_self] at hmax
  exact (abs_clampUnit_sub_le _ _).trans hmax

theorem abs_weightBlue_sub_le (x y : ℚ) : |weightBlue x - weightBlue y| ≤ |x - y| := by
  have hmax := abs_max_sub_max_le_max (3 - x) (x - 5) (3 - y) (y - 5)
  rw [sub_sub_sub_cancel_right, sub_sub_sub_cancel_left, abs_sub_comm y, max_self] at hmax
  exact (abs_clampUnit_sub_le _ _).trans hmax

/-- The weights in the order of `sectorRow`: 0 for v, 1 for p, frac for q, 1 - frac for t. -/
def weightRow (sector : Nat) (frac : ℚ) : ℚ × ℚ × ℚ :=
  match sector with
  | 0 => (0, 1 - frac, 1)
  | 1 => (frac, 0, 1)
  | 2 => (1, 0, 1 - frac)
  | 3 => (1, frac, 0)
  | 4 => (1 - frac, 1, 0)
  | _ => (0, 1, frac)

/-- In its sector each weight is constant or the place within the sector. -/
theorem weightRow_eq {n : Nat} {x : ℚ} (hn : n < 6) (hx : n ≤ x ∧ x < n + 1) :
    (weightRow n (x - n)).1 = weightRed x ∧ (weightRow n (x - n)).2.1 = weightGreen x ∧
    (weightRow n (x - n)).2.2 = weightBlue x := by
  obtain ⟨hlow, hhigh⟩ := hx
  rw [weightRed_eq_ite, weightGreen_eq_ite, weightBlue_eq_ite]
  interval_cases n
  all_goals
    norm_num at hlow hhigh
    norm_num [weightRow]
    grind

/-- The place on the circle that R123 computes from how far each channel is below the largest, in chromas, gives
these distances back as its weights. -/
theorem weights_of_shortfalls {R G B x : ℚ} (hR : 0 ≤ R ∧ R ≤ 1) (hG : 0 ≤ G ∧ G ≤ 1) (hB : 0 ≤ B ∧ B ≤ 1)
    (hmax : R = 0 ∨ G = 0 ∨ B = 0) (hmin : R = 1 ∨ G = 1 ∨ B = 1)
    (hx : x = if R = 0 then B - G else if G = 0 then R - B + 2 else G - R + 4) :
    let y := if x < 0 then x + 6 else x
    weightRed y = R ∧ weightGreen y = G ∧ weightBlue y = B := by
  dsimp only
  rw [weightRed_eq_ite, weightGreen_eq_ite, weightBlue_eq_ite]
  split_ifs at hx
  · subst hx; grind
  · subst hx; grind
  · subst hx; grind

/-- How far a channel is below the largest, in chromas. -/
def shortfall (c : Rgb8) (x : Byte) : ℚ := (rgbMax c - x.toNat) / rgbChroma c

section Chromatic
variable {c : Rgb8} (hchroma : rgbChroma c ≠ 0)
include hchroma

theorem shortfall_eq_zero_iff (x : Byte) : shortfall c x = 0 ↔ rgbMax c = x.toNat := by
  have hpos := one_le_rgbChroma hchroma
  rw [shortfall, div_eq_zero_iff, or_iff_left (by linarith), sub_eq_zero, Nat.cast_inj]

theorem shortfall_eq_one_iff (x : Byte) : shortfall c x = 1 ↔ rgbMin c = x.toNat := by
  have hpos := one_le_rgbChroma hchroma
  have hchroma_eq : (rgbChroma c : ℚ) = rgbMax c - rgbMin c := by exact_mod_cast rgbChroma_cast c
  rw [shortfall, div_eq_one_iff_eq (by linarith), hchroma_eq, sub_right_inj, Nat.cast_inj, eq_comm]

theorem shortfall_mem {x : Byte} (hx : rgbMin c ≤ x.toNat ∧ x.toNat ≤ rgbMax c) :
    0 ≤ shortfall c x ∧ shortfall c x ≤ 1 := by
  have hpos := one_le_rgbChroma hchroma
  have hchroma_eq : (rgbChroma c : ℚ) = rgbMax c - rgbMin c := by exact_mod_cast rgbChroma_cast c
  have hlow : (rgbMin c : ℚ) ≤ x.toNat := by exact_mod_cast hx.1
  have hhigh : (x.toNat : ℚ) ≤ rgbMax c := by exact_mod_cast hx.2
  exact ⟨div_nonneg (by linarith) (by linarith), div_le_one_of_le₀ (by linarith) (by linarith)⟩

theorem weights_wrappedSixths :
    weightRed (wrappedSixths c) = shortfall c c.r ∧ weightGreen (wrappedSixths c) = shortfall c c.g ∧
    weightBlue (wrappedSixths c) = shortfall c c.b := by
  refine weights_of_shortfalls (shortfall_mem hchroma ?_) (shortfall_mem hchroma ?_) (shortfall_mem hchroma ?_) ?_ ?_ ?_
  · unfold rgbMin rgbMax; omega
  · unfold rgbMin rgbMax; omega
  · unfold rgbMin rgbMax; omega
  · simp only [shortfall_eq_zero_iff hchroma]; unfold rgbMax; omega
  · simp only [shortfall_eq_one_iff hchroma]; unfold rgbMin; omega
  · simp only [shortfall_eq_zero_iff hchroma]
    unfold exactSixths shortfall
    split_ifs <;> ring

/-- V(1 - S · w) with the channel's own weight is the channel. -/
theorem dimmed_shortfall (w : ℚ) (x : Byte) :
    (rgbMax c / 255 * (1 - rgbChroma c / rgbMax c * w) : ℚ) - x.toNat / 255 =
      rgbChroma c / 255 * (shortfall c x - w) := by
  have hpos := one_le_rgbChroma hchroma
  have hmax : (rgbChroma c : ℚ) ≤ rgbMax c := by exact_mod_cast rgbChroma_le_rgbMax c
  have hmax' : (rgbMax c : ℚ) ≠ 0 := by linarith
  have hchroma' : (rgbChroma c : ℚ) ≠ 0 := by linarith
  unfold shortfall
  field_simp
  ring

/-- The last step of the round trip for one channel. -/
theorem toNat_scaledByte_of_weight {a : F32} {w : ℚ} {x : Byte}
    (ha : NearUnit (7 * smallStep) a (rgbMax c / 255 * (1 - rgbChroma c / rgbMax c * w)))
    (hw : |w - shortfall c x| ≤ 15 * smallStep) :
    (scaledByte a).toNat = x.toNat ∨ (scaledByte a).toNat + 1 = x.toNat := by
  have hscale : (rgbChroma c : ℚ) / 255 ≤ 1 := by
    have hle : (rgbChroma c : ℚ) ≤ 255 := by exact_mod_cast (rgbChroma_le_rgbMax c).trans (rgbMax_le c)
    linarith
  refine toNat_scaledByte_of_near (by omega) ha.finite ((abs_sub_le _ _ _).trans (add_le_add ha.near ?_) |>.trans
    (by unfold smallStep; norm_num : 7 * smallStep + 15 * smallStep ≤ 32 * smallStep))
  rw [dimmed_shortfall hchroma, abs_mul, abs_of_nonneg (by positivity), abs_sub_comm]
  calc (rgbChroma c / 255 * |w - shortfall c x| : ℚ) ≤ 1 * |w - shortfall c x| := by gcongr
    _ ≤ 15 * smallStep := by rwa [one_mul]

end Chromatic

/-! ### to_rgb near the exact formula -/

/-- The three values of `sectorRow` are near V(1 - S · w) with the weights of the position. -/
theorem nearUnit_sectorRow {n : Nat} {x V S e : ℚ} {v p q t : F32} (hn : n < 6) (hx : n ≤ x ∧ x < n + 1)
    (hv : NearUnit e v (V * (1 - S * 0))) (hp : NearUnit e p (V * (1 - S * 1)))
    (hq : NearUnit e q (V * (1 - S * (x - n)))) (ht : NearUnit e t (V * (1 - S * (1 - (x - n))))) :
    NearUnit e (sectorRow n v p q t).1 (V * (1 - S * weightRed x)) ∧
    NearUnit e (sectorRow n v p q t).2.1 (V * (1 - S * weightGreen x)) ∧
    NearUnit e (sectorRow n v p q t).2.2 (V * (1 - S * weightBlue x)) := by
  obtain ⟨hred, hgreen, hblue⟩ := weightRow_eq hn hx
  rw [← hred, ← hgreen, ← hblue]
  generalize x - n = frac at *
  -- each sector's row lists v, p, q, t in the places where its weights list 0, 1, frac, 1 - frac
  interval_cases n <;> exact ⟨‹_›, ‹_›, ‹_›⟩

/-- The three numbers that `toRgbChromatic` converts to bytes. -/
def chromaticRow (x : Hsv) : F32 × F32 × F32 :=
  let h6 := fmul x.h f32Six
  let frac := fsub h6 (f32OfInt (hueSector h6))
  sectorRow (hueSector h6) x.v (fmul x.v (fsub f32One x.s)) (fmul x.v (fsub f32One (fmul x.s frac)))
    (fmul x.v (fsub f32One (fmul x.s (fsub f32One frac))))

theorem toRgbChromatic_eq (x : Hsv) :
    toRgbChromatic x = { r := scaledByte (chromaticRow x).1, g := scaledByte (chromaticRow x).2.1,
                         b := scaledByte (chromaticRow x).2.2 } := rfl

/-- For a hue in [0, 1) they are near V(1 - S · w) with the weights of its position. -/
theorem nearUnit_chromaticRow {x : Hsv} {V S : ℚ} (hh : hueInRange x.h = true)
    (hs : NearUnit smallStep x.s S) (hv : NearUnit smallStep x.v V) :
    let position := f32Value (fmul x.h f32Six)
    NearUnit (7 * smallStep) (chromaticRow x).1 (V * (1 - S * weightRed position)) ∧
    NearUnit (7 * smallStep) (chromaticRow x).2.1 (V * (1 - S * weightGreen position)) ∧
    NearUnit (7 * smallStep) (chromaticRow x).2.2 (V * (1 - S * weightBlue position)) := by
  obtain ⟨hfin, hlow, hhigh⟩ := (hueInRange_iff _).1 hh
  obtain ⟨hfin6, hlow6, hhigh6, -⟩ := fmul_six_mem hfin hlow hhigh
  unfold chromaticRow
  generalize fmul x.h f32Six = h6 at *
  obtain ⟨hle, hlt⟩ := hueSector_le_lt hfin6 hlow6 hhigh6
  have hmem : 0 ≤ f32Value h6 - hueSector h6 ∧ f32Value h6 - hueSector h6 ≤ 1 := ⟨by linarith, by linarith⟩
  have hfrac := nearUnit_of_roundsTo (frac_roundsTo hfin6) hmem hmem (by rw [sub_self, abs_zero])
  have hstep : 0 ≤ smallStep := by norm_num [smallStep]
  refine nearUnit_sectorRow (hueSector_lt h6) ⟨hle, hlt⟩ ?_ ?_ ?_ ?_
  · rw [mul_zero, sub_zero, mul_one]
    exact hv.mono (by linarith)
  · rw [mul_one]
    exact (hv.mul hs.one_sub).mono (by linarith)
  · exact hv.dimmed hs (hfrac.mono (by linarith))
  · exact hv.dimmed hs (hfrac.one_sub.mono (by linarith))

theorem not_isZero_hsvSaturation {c : Rgb8} (hchroma : rgbChroma c ≠ 0) : ¬ isZero (hsvSaturation c) = true := by
  have hmax := rgbMax_le c
  have hle := rgbChroma_le_rgbMax c
  have hpos := one_le_rgbChroma hchroma
  have hexact := hsvSaturation_exact_mem_unit (c := c)
  have hbelow : (1 / 256 : ℚ) ≤ rgbChroma c / rgbMax c := by
    have hmax' : (rgbMax c : ℚ) ≤ 255 := by exact_mod_cast hmax
    have hle' : (rgbChroma c : ℚ) ≤ rgbMax c := by exact_mod_cast hle
    rw [le_div_iff₀ (by linarith)]
    linarith
  have hlow := le_roundsTo (hsvSaturation_roundsTo (c := c) (by omega)) (abs_le.2 ⟨by linarith, by linarith⟩)
    (isF32_of_eq 1 8) hbelow
  rw [isZero_iff, ← f32Value_eq_zero_iff]
  intro hzero
  rw [hzero] at hlow
  norm_num at hlow

theorem rgbChroma_grey (x : Byte) : rgbChroma ⟨x, x, x⟩ = 0 := by simp [rgbChroma, rgbMax, rgbMin]

theorem hsvSaturation_grey : ∀ x : Byte, hsvSaturation ⟨x, x, x⟩ = f32Zero := by decide +kernel

/-- Truncation loses nothing of x / 255 rounded and times 255 rounded, for any of the 256 (C1). -/
theorem scaledByte_hsvValue_grey : ∀ x : Byte, scaledByte (hsvValue ⟨x, x, x⟩) = x := by decide +kernel

theorem grey_roundTrip (x : Byte) :
    (toHsv ⟨x, x, x⟩).h = 0 ∧ (toHsv ⟨x, x, x⟩).s = 0 ∧ toRgb (toHsv ⟨x, x, x⟩) = ⟨x, x, x⟩ := by
  have hzero : isZero (toHsv ⟨x, x, x⟩).s = true := by rw [toHsv_s, hsvSaturation_grey]; decide
  rw [toRgb_of_isZero hzero, toHsv_h, toHsv_s, toHsv_v, scaledByte_hsvValue_grey]
  exact ⟨hsvHue_of_grey (rgbChroma_grey x), hsvSaturation_grey x, rfl⟩

theorem eq_grey_of_rgbChroma_eq_zero {c : Rgb8} (h : rgbChroma c = 0) : ∃ x, c = ⟨x, x, x⟩ := by
  unfold rgbChroma rgbMax rgbMin at h
  refine ⟨c.r, ?_⟩
  have hg : c.g = c.r := BitVec.eq_of_toNat_eq (by omega)
  have hb : c.b = c.r := BitVec.eq_of_toNat_eq (by omega)
  conv_lhs => rw [show c = ⟨c.r, c.g, c.b⟩ from rfl, hg, hb]

theorem chromatic_roundTrip {c : Rgb8} (hchroma : rgbChroma c ≠ 0) :
    ((toRgb (toHsv c)).r.toNat = c.r.toNat ∨ (toRgb (toHsv c)).r.toNat + 1 = c.r.toNat) ∧
    ((toRgb (toHsv c)).g.toNat = c.g.toNat ∨ (toRgb (toHsv c)).g.toNat + 1 = c.g.toNat) ∧
    ((toRgb (toHsv c)).b.toNat = c.b.toNat ∨ (toRgb (toHsv c)).b.toNat + 1 = c.b.toNat) := by
  have hmax : rgbMax c ≠ 0 := by have := rgbChroma_le_rgbMax c; omega
  have hturn := nearTurn_hsvHue hchroma
  have hplace : |f32Value (fmul (hsvHue c) f32Six) - wrappedSixths c| ≤ 15 * smallStep := by
    obtain ⟨-, -, -, hnear⟩ := fmul_six_mem hturn.finite hturn.nonneg hturn.lt_one
    exact (abs_sub_le _ _ _).trans ((add_le_add hnear hturn.near).trans_eq (by ring))
  have hsat := nearUnit_of_roundsTo (e := 0) (hsvSaturation_roundsTo hmax) hsvSaturation_exact_mem_unit
    hsvSaturation_exact_mem_unit (by rw [sub_self, abs_zero])
  have hval := nearUnit_of_roundsTo (e := 0) (hsvValue_roundsTo c) (hsvValue_exact_mem_unit c)
    (hsvValue_exact_mem_unit c) (by rw [sub_self, abs_zero])
  rw [zero_add, ← toHsv_s] at hsat
  rw [zero_add, ← toHsv_v] at hval
  obtain ⟨hr, hg, hb⟩ := nearUnit_chromaticRow (toHsvStaysInRange c).1 hsat hval
  obtain ⟨hred, hgreen, hblue⟩ := weights_wrappedSixths hchroma
  rw [toRgb_of_not_isZero (by rw [toHsv_s]; exact not_isZero_hsvSaturation hchroma), toRgbChromatic_eq]
  rw [← toHsv_h] at hplace
  dsimp only
  exact ⟨toNat_scaledByte_of_weight hchroma hr (by rw [← hred]; exact (abs_weightRed_sub_le _ _).trans hplace),
    toNat_scaledByte_of_weight hchroma hg (by rw [← hgreen]; exact (abs_weightGreen_sub_le _ _).trans hplace),
    toNat_scaledByte_of_weight hchroma hb (by rw [← hblue]; exact (abs_weightBlue_sub_le _ _).trans hplace)⟩

/-- Settles O29: a grey comes back exactly, and every other colour by the error of the rounded operations. -/
theorem roundTripGivesSameOrOneLess : Obligations.RoundTripGivesSameOrOneLess := by
  refine ⟨fun c => ?_, grey_roundTrip⟩
  obtain hgrey | hchroma := eq_or_ne (rgbChroma c) 0
  · obtain ⟨x, rfl⟩ := eq_grey_of_rgbChroma_eq_zero hgrey
    obtain ⟨-, -, hback⟩ := grey_roundTrip x
    rw [hback]
    exact ⟨.inl rfl, .inl rfl, .inl rfl⟩
  · exact chromatic_roundTrip hchroma

end Sys2Proof.Machine

/-! ## The channel and gain transformers

`powf` is settled by the first of its cases that applies. The identity settings multiply by 1.0 and add 0.0, which
rounds nothing. A product of two numbers not below 0.0 has a negative sign only where it is a zero. -/
namespace Sys2Proof.Machine
open Sys2Proof.Statements

/-! ### POWF (R141) -/

theorem powf_one_left (y : F32) : powf f32One y = f32One := if_pos rfl

theorem powf_zero_left {y : F32} (hy : flt f32Zero y = true) : powf f32Zero y = f32Zero := by
  rw [powf, if_neg (by decide), if_pos ⟨rfl, hy⟩]

theorem powf_one_right {x : F32} (hx : inUnit x = true) : powf x f32One = x := by
  by_cases hone : x = f32One
  · rw [hone, powf_one_left]
  by_cases hzero : x = f32Zero
  · rw [hzero, powf_zero_left (by decide)]
  rw [powf, if_neg hone, if_neg fun h => hzero h.1, if_pos ⟨rfl, hx⟩]

theorem inUnit_unitValue (a : F32) : inUnit (unitValue a) = true := by
  unfold unitValue
  split
  next hunit => exact hunit
  next => decide

theorem inUnit_powf {x y : F32} (hx : inUnit x = true) (hy : flt f32Zero y = true) : inUnit (powf x y) = true := by
  unfold powf
  split_ifs with hone hzero hexp hfree
  · decide
  · decide
  · exact hx
  · exact inUnit_unitValue _
  · exact absurd ⟨hx, hy⟩ hfree

/-- Settles O30: each property is one case of `powf`, and in the fourth no case leaves [0, 1]. -/
theorem powfHasItsFourProperties : Obligations.PowfHasItsFourProperties := fun _ y =>
  ⟨powf_one_right, powf_zero_left, powf_one_left y, inUnit_powf⟩

/-! ### The sign of a product -/

theorem roundUnits_le_infMag (num den : Nat) : roundUnits num den ≤ infMag := Nat.min_le_right ..

theorem roundUnits_zero (den : Nat) : roundUnits 0 den = 0 := by simp [roundUnits, roundExp]

/-- Not below 0.0: NaN, a positive sign or a zero. -/
theorem flt_zero_eq_false_iff (a : F32) :
    flt a f32Zero = false ↔ isNaN a = true ∨ f32Neg a = false ∨ isZero a = true := by
  have hkey : f32Key a < 0 ↔ f32Neg a = true ∧ f32Mag a ≠ 0 := by
    unfold f32Key
    cases f32Neg a <;> simp [Nat.pos_iff_ne_zero]
  have hzero : isNaN f32Zero = false ∧ f32Key f32Zero = 0 := by decide
  rw [isZero_iff, ← Bool.not_eq_true, flt_eq_true_iff, hzero.1, hzero.2, hkey]
  cases isNaN a <;> cases f32Neg a <;> simp

theorem flt_f32Pack_zero {neg : Bool} {mag : Nat} (hmag : mag ≤ infMag) (hsign : neg = false ∨ mag = 0) :
    flt (f32Pack neg mag) f32Zero = false := by
  have hlt : mag < 2 ^ 31 := hmag.trans_lt (by decide)
  rw [flt_zero_eq_false_iff, f32Neg_f32Pack neg hlt, isZero_iff, f32Mag_f32Pack neg hlt]
  exact .inr hsign

theorem flt_fmul_zero {a b : F32} (ha : flt a f32Zero = false) (hb : flt b f32Zero = false) :
    flt (fmul a b) f32Zero = false := by
  have hsign (hnan : ¬ (isNaN a || isNaN b) = true) (hzero : ¬ (isZero a || isZero b) = true) :
      (f32Neg a != f32Neg b) = false := by
    rw [flt_zero_eq_false_iff] at ha hb
    simp_all
  unfold fmul
  split_ifs with hnan hinf hzero
  · exact flt_eq_false_of_isNaN (.inl isNaN_nanF32)
  · exact flt_eq_false_of_isNaN (.inl isNaN_nanF32)
  · exact flt_f32Pack_zero le_rfl (.inl (hsign hnan hzero))
  · refine flt_f32Pack_zero (roundUnits_le_infMag _ _) ?_
    by_cases hzero : (isZero a || isZero b) = true
    · have hunits : f32Units a * f32Units b = 0 := by
        rwa [Bool.or_eq_true, isZero_iff, isZero_iff, ← f32Units_eq_zero_iff, ← f32Units_eq_zero_iff,
          ← Nat.mul_eq_zero] at hzero
      exact .inr (by rw [hunits, roundUnits_zero])
    · exact .inl (hsign hnan hzero)

/-! ### The gain clamp (R144, R145) -/

/-- 1.0 for a NaN and for what is not below 1.0, in one case. -/
theorem gclamp_eq_ite (p : F32) :
    gclamp p = if isNaN p = true ∨ flt p f32One = false then f32One else p := by
  unfold gclamp
  cases isNaN p <;> cases flt p f32One <;> rfl

theorem flt_asymm {a b : F32} (h : flt a b = true) : flt b a = false := by
  rw [flt_eq_true_iff] at h
  rw [← Bool.not_eq_true, flt_eq_true_iff]
  omega

theorem gclamp_not_nan_le_one (p : F32) : isNaN (gclamp p) = false ∧ flt f32One (gclamp p) = false := by
  unfold gclamp
  split_ifs with hnan hlt
  · decide
  · exact ⟨Bool.eq_false_iff.2 hnan, flt_asymm hlt⟩
  · decide

theorem inUnit_iff (a : F32) :
    inUnit a = true ↔ isNaN a = false ∧ flt a f32Zero = false ∧ flt f32One a = false := by
  simp [inUnit, and_assoc]

theorem inUnit_gclamp {p : F32} (h : flt p f32Zero = false) : inUnit (gclamp p) = true := by
  obtain ⟨hnan, hle⟩ := gclamp_not_nan_le_one p
  refine (inUnit_iff _).2 ⟨hnan, ?_, hle⟩
  unfold gclamp
  split_ifs
  · decide
  · exact h
  · decide

theorem inUnit_gclamp_fmul {x g : F32} (hx : inUnit x = true) (hg : flt g f32Zero = false) :
    inUnit (gclamp (fmul x g)) = true := by
  obtain ⟨-, hlow, -⟩ := (inUnit_iff x).1 hx
  exact inUnit_gclamp (flt_fmul_zero hlow hg)

/-- Settles O32: the clamp alone keeps out NaN and what is above 1.0, and the product of numbers not below 0.0 is not
below it either. -/
theorem gainNeverExceedsOne : Obligations.GainNeverExceedsOne := fun x g =>
  ⟨gclamp_not_nan_le_one (fmul x.s g.saturationGain), gclamp_not_nan_le_one (fmul x.v g.valueGain),
    fun hs hv _ hsat _ hval => ⟨inUnit_gclamp_fmul hs hsat, inUnit_gclamp_fmul hv hval⟩⟩

/-! ### CHAN and GAIN (R147, R148) -/

section Commands
variable {k : Nat} {s : State} (hidle : s.pos = .idle) (hk : k < s.params.kMax)
include hidle hk

theorem exec_chan_idle : exec (.chan k) s = .next (withResRgb (chanRgb s.opnd.opaRgb (xfChannel s k)) s) :=
  (whenIdle_idle hidle _).trans (whenEntry_ok hk _)

theorem exec_gain_idle : exec (.gain k) s = .next (withResHsv (gainResult k s) s) :=
  (whenIdle_idle hidle _).trans (whenEntry_ok hk _)

end Commands

/-- Settles O13: past the two guards CHAN is `chanRgb`, and the statement's lane is `chan1`. -/
theorem chanResult : Obligations.ChanResult := fun _ _ hidle hk => exec_chan_idle hidle hk

/-- Settles O14: past the two guards GAIN is `gainHsv`, with the clamp in one case. (`gainResult` is the model's.) -/
theorem gainResult_holds : Obligations.GainResult := by
  intro k s hidle hk
  dsimp only
  rw [exec_gain_idle hidle hk, ← gclamp_eq_ite, ← gclamp_eq_ite]
  rfl

/-! ### The identity settings (R143) -/

theorem f32Pack_self (a : F32) : f32Pack (f32Neg a) (f32Mag a) = a := by
  apply BitVec.eq_of_toNat_eq
  simp only [f32Pack, f32Neg, f32Mag, BitVec.msb_eq_decide, BitVec.toNat_ofNat, decide_eq_true_eq]
  split_ifs <;> omega

/-- A finite number's own units are not rounded. -/
theorem roundUnits_f32Units {a : F32} (ha : isFinite a = true) {den : Nat} (hden : 0 < den) :
    roundUnits (f32Units a * den) den = f32Mag a := by
  obtain ⟨c, hround, hnear⟩ := roundUnits_nearest (f32Units a * den) den hden
  have hdist := (hnear (f32Mag a)).1
  rw [Nat.cast_mul, mul_div_cancel_right₀ _ (by positivity), ← f32Units, sub_self, abs_zero, abs_nonpos_iff,
    sub_eq_zero, Nat.cast_inj] at hdist
  rw [hround, unitsOf_strictMono.injective hdist, min_eq_left ((isFinite_iff a).1 ha).le]

theorem fmul_one {a : F32} (ha : isFinite a = true) : fmul a f32One = a := by
  have hone : isFinite f32One = true ∧ f32Neg f32One = false ∧ f32Units f32One = 2 ^ 149 := by decide +kernel
  obtain ⟨hfin, hneg, hunits⟩ := hone
  have hround : roundUnits (f32Units a * 2 ^ 149) (2 ^ 149) = f32Mag a :=
    roundUnits_f32Units ha (by positivity)
  simp only [fmul, not_special_of_isFinite ha, not_special_of_isFinite hfin, hneg, hunits, hround, Bool.or_self,
    Bool.false_eq_true, if_false, Bool.bne_false, f32Pack_self]

/-- Adding +0.0 keeps every finite number of positive sign. -/
theorem fadd_zero {a : F32} (ha : isFinite a = true) (hneg : f32Neg a = false) : fadd a f32Zero = a := by
  have hzero : isFinite f32Zero = true ∧ f32Neg f32Zero = false ∧ f32Int f32Zero = 0 := by decide
  obtain ⟨hfin, hneg0, hint0⟩ := hzero
  have hint : f32Int a = f32Units a := by simp [f32Int, hneg]
  have hround : roundUnits (f32Units a) 1 = f32Mag a := by
    simpa only [Nat.mul_one] using roundUnits_f32Units ha one_pos
  have hself : f32Pack false (f32Mag a) = a := hneg ▸ f32Pack_self a
  simp only [fadd, not_special_of_isFinite ha, not_special_of_isFinite hfin, hint, hint0, hneg, hneg0, add_zero,
    Bool.or_self, Bool.and_self, Bool.false_eq_true, if_false, Nat.cast_eq_zero, Int.natAbs_natCast, hround]
  split
  next hunits => rwa [(f32Units_eq_zero_iff a).1 hunits] at hself
  next => rwa [decide_eq_false (by omega)]

theorem f32Neg_f32Pack_roundUnits (neg : Bool) (num den : Nat) : f32Neg (f32Pack neg (roundUnits num den)) = neg :=
  f32Neg_f32Pack neg ((roundUnits_le_infMag num den).trans_lt (by decide))

theorem f32Neg_fdiv {a b : F32} (ha : isFinite a = true) (hb : isFinite b = true) (hne : isZero b = false) :
    f32Neg (fdiv a b) = (f32Neg a != f32Neg b) := by
  simp only [fdiv, not_special_of_isFinite ha, not_special_of_isFinite hb, hne, Bool.or_self, Bool.false_eq_true,
    if_false, f32Neg_f32Pack_roundUnits]

theorem f32Neg_f32OfInt (n : ℤ) : f32Neg (f32OfInt n) = decide (n < 0) := f32Neg_f32Pack_roundUnits ..

section Identity
variable (c : Byte)

theorem rgbMax_grey : rgbMax ⟨c, c, c⟩ = c.toNat := by simp [rgbMax]

/-- R140 normalizes a channel as R122 does the value of its grey. -/
theorem hsvValue_grey : hsvValue ⟨c, c, c⟩ = fdiv (f32OfInt c.toNat) f32Byte := by rw [hsvValue, rgbMax_grey]

theorem f32Neg_hsvValue_grey : f32Neg (hsvValue ⟨c, c, c⟩) = false := by
  have hfin : isFinite (f32OfInt c.toNat) = true := isFinite_f32OfInt (by rw [abs_le]; omega)
  have hsign : f32Neg (f32OfInt c.toNat) = false := by rw [f32Neg_f32OfInt, decide_eq_false (by omega)]
  rw [hsvValue_grey, f32Neg_fdiv hfin (by decide) (by decide), hsign]
  decide

theorem inUnit_hsvValue_grey : inUnit (hsvValue ⟨c, c, c⟩) = true := by
  obtain ⟨-, -, hvalue⟩ := toHsvStaysInRange ⟨c, c, c⟩
  exact hvalue

theorem isFinite_hsvValue_grey : isFinite (hsvValue ⟨c, c, c⟩) = true :=
  (roundsTo_mem_unit (hsvValue_roundsTo ⟨c, c, c⟩) (hsvValue_exact_mem_unit _)).1

/-- Only 255 is normalized to 1.0: the others are at most 254 / 255, with 511 / 512 above them. -/
theorem flt_hsvValue_grey_one : flt (hsvValue ⟨c, c, c⟩) f32One = decide (c ≠ 255) := by
  obtain rfl | hc := eq_or_ne c 255
  · decide +kernel
  have hlt : c.toNat ≤ 254 := by
    have h255 : c.toNat ≠ 255 := fun h => hc (BitVec.eq_of_toNat_eq h)
    omega
  have hexact : (rgbMax ⟨c, c, c⟩ / 255 : ℚ) ≤ 511 / 512 := by
    have hcast : (c.toNat : ℚ) ≤ 254 := by exact_mod_cast hlt
    rw [rgbMax_grey]
    linarith
  have hvalue := roundsTo_le (hsvValue_roundsTo ⟨c, c, c⟩)
    (abs_le.2 ⟨by linarith [hsvValue_exact_mem_unit ⟨c, c, c⟩], by linarith⟩) (isF32_of_eq 511 9) hexact
  rw [decide_eq_true hc, flt_iff_f32Value_lt (isFinite_hsvValue_grey c) (by decide), f32Value_one]
  linarith

/-- The identity settings with any threshold. -/
def identitySettings (threshold : F32) : ChannelSettings :=
  { gamma := f32One, whitelevel := f32One, blacklevel := f32Zero, threshold := threshold }

theorem chanLevel_identitySettings (t : F32) : chanLevel c (identitySettings t) = hsvValue ⟨c, c, c⟩ := by
  have hfin := isFinite_hsvValue_grey c
  have hscale : fsub f32One f32Zero = f32One := by decide +kernel
  rw [chanLevel, identitySettings, ← hsvValue_grey, powf_one_right (inUnit_hsvValue_grey c), hscale, fmul_one hfin,
    fmul_one hfin, fadd_zero hfin (f32Neg_hsvValue_grey c)]

/-- The identity settings leave the channel or, below the threshold, make it 0. -/
theorem chan1_identitySettings (t : F32) :
    chan1 c (identitySettings t) = if flt (hsvValue ⟨c, c, c⟩) t = true then 0 else c := by
  have hbyte : toByte (fmul (hsvValue ⟨c, c, c⟩) f32Byte) = c := scaledByte_hsvValue_grey c
  rw [chan1, chanLevel_identitySettings, hbyte, identitySettings]

end Identity

/-- Settles O31: with the identity settings the threshold is compared with the normalized channel, which is never
below 0.0 and reaches 1.0 for 255 alone. -/
theorem channelIdentityAndThreshold : Obligations.ChannelIdentityAndThreshold := by
  intro c
  obtain ⟨-, hlow, -⟩ := (inUnit_iff _).1 (inUnit_hsvValue_grey c)
  refine ⟨(chan1_identitySettings c f32Zero).trans (by rw [hlow]; rfl), (chan1_identitySettings c f32One).trans ?_⟩
  rw [flt_hsvValue_grey_one]
  obtain rfl | hc := eq_or_ne c 255
  · rfl
  · rw [decide_eq_true hc, if_pos rfl, if_neg hc]

end Sys2Proof.Machine

/-! ## The transform pipeline

One equation of `foldStep` per entry variant; everything about the fold goes through these four. -/
namespace Sys2Proof.Machine
open Sys2Proof.Statements

/-! ### The views of the accumulator (R160) -/

@[simp] theorem asRgb_rgb (c : Rgb8) : asRgb (.rgb c) = c := rfl
@[simp] theorem asRgb_hsv (x : Hsv) : asRgb (.hsv x) = toRgb x := rfl
@[simp] theorem asHsv_rgb (c : Rgb8) : asHsv (.rgb c) = toHsv c := rfl
@[simp] theorem asHsv_hsv (x : Hsv) : asHsv (.hsv x) = x := rfl

/-! ### One fold step (R162) -/

section FoldStep
variable {s : State} {k : Nat} (acc : Color)

theorem foldStep_both (hchan : xfHasChan s k = true) (hgain : xfHasGain s k = true) :
    foldStep s acc k = .hsv (gainHsv (toHsv (chanRgb (asRgb acc) (xfChannel s k))) (xfGain s k)) := by
  simp [foldStep, hchan, hgain]

theorem foldStep_channelOnly (hchan : xfHasChan s k = true) (hgain : xfHasGain s k = false) :
    foldStep s acc k = .rgb (chanRgb (asRgb acc) (xfChannel s k)) := by
  simp [foldStep, hchan, hgain]

theorem foldStep_gainOnly (hchan : xfHasChan s k = false) (hgain : xfHasGain s k = true) :
    foldStep s acc k = .hsv (gainHsv (asHsv acc) (xfGain s k)) := by
  simp [foldStep, hchan, hgain]

theorem foldStep_none (hchan : xfHasChan s k = false) (hgain : xfHasGain s k = false) :
    foldStep s acc k = acc := by
  simp [foldStep, hchan, hgain]

end FoldStep

/-- Settles O33: the four equations of `foldStep`; the statement's views are `asRgb` and `asHsv`, for either form of
the accumulator. -/
theorem foldStepByVariant : Obligations.FoldStepByVariant := by
  intro s acc k
  cases acc with
  | rgb c => exact ⟨foldStep_both _, foldStep_channelOnly _, foldStep_gainOnly _, foldStep_none _⟩
  | hsv x => exact ⟨foldStep_both _, foldStep_channelOnly _, foldStep_gainOnly _, foldStep_none _⟩

/-! ### The fold over the pair list (R163, R164) -/

theorem foldl_foldStep_none {s : State} (acc : Color) {ks : List Nat}
    (hnone : ∀ k ∈ ks, xfHasChan s k = false ∧ xfHasGain s k = false) : ks.foldl (foldStep s) acc = acc := by
  induction ks with
  | nil => rfl
  | cons k ks ih =>
    obtain ⟨⟨hchan, hgain⟩, hrest⟩ := List.forall_mem_cons.1 hnone
    rw [List.foldl_cons, foldStep_none acc hchan hgain, ih hrest]

theorem pipeline_none {s : State} {i : Nat} (avg : Rgb8)
    (hnone : ∀ k ∈ pairList s i, xfHasChan s k = false ∧ xfHasGain s k = false) : pipeline s i avg = avg := by
  rw [pipeline, foldl_foldStep_none _ hnone, asRgb_rgb]

/-- A Both entry converts to HSV between its transformers, as the GainOnly entry after the ChannelOnly one does. -/
theorem foldStep_both_eq_channelOnly_gainOnly {s : State} (acc : Color) {k kc kg : Nat}
    (hchan : xfHasChan s k = true) (hgain : xfHasGain s k = true)
    (hcchan : xfHasChan s kc = true) (hcgain : xfHasGain s kc = false)
    (hgchan : xfHasChan s kg = false) (hggain : xfHasGain s kg = true)
    (hchannel : xfChannel s kc = xfChannel s k) (hgains : xfGain s kg = xfGain s k) :
    foldStep s acc k = foldStep s (foldStep s acc kc) kg := by
  rw [foldStep_both acc hchan hgain, foldStep_channelOnly acc hcchan hcgain, foldStep_gainOnly _ hgchan hggain,
    asHsv_rgb, hchannel, hgains]

/-- Settles O34: a fold of None entries keeps the accumulator, which is still the average in RGB form; and the Both
step is the composition of the two others. -/
theorem pipelineProperties : Obligations.PipelineProperties :=
  ⟨fun _ _ avg hnone => pipeline_none avg hnone, fun _ acc _ _ _ => foldStep_both_eq_channelOnly_gainOnly acc⟩

/-! ### PIPE (R165) -/

theorem exec_pipe_idle {s : State} (hidle : s.pos = .idle) (i : Nat) :
    exec (.pipe i) s = .next (withResRgb (pipeline s i s.opnd.opaRgb) s) :=
  whenIdle_idle hidle _

theorem xfCovers_eq_decide (s : State) (i k : Nat) :
    xfCovers s i k = decide (xfFirst s k ≤ i ∧ i ≤ xfLast s k) := (Bool.decide_and ..).symm

/-- Settles O15: past the guard PIPE is `pipeline`, and the statement's covering entries are its pair list. -/
theorem pipeResult : Obligations.PipeResult := by
  intro i s hidle
  have hcovers : xfCovers s i = fun k => decide (xfFirst s k ≤ i ∧ i ≤ xfLast s k) :=
    funext (xfCovers_eq_decide s i)
  rw [exec_pipe_idle hidle, pipeline, pairList, hcovers]
  rfl

end Sys2Proof.Machine

/-! ## Smoothing

A linear step is the integer part of one rounded product of the difference and a weight in [0, 1]. Rounding crosses no
binary32 value, so the product stays between 0 and the difference, and so does its integer part; a weight below 1 is at
most 1 - 2^-24, itself a binary32 value. -/
namespace Sys2Proof.Machine
open Sys2Proof.Statements

/-! ### Durations as binary32 numbers -/

/-- Rounding a non-negative number short of the overflow at most doubles it, since 0.0 is a binary32 value. -/
theorem mem_of_roundsTo_of_nonneg {x : ℚ} {c : F32} (h : RoundsTo x c) (hx : 0 ≤ x)
    (hbig : x < (2 ^ 25 - 1) * 2 ^ 103) : isFinite c = true ∧ 0 ≤ f32Value c ∧ f32Value c ≤ 2 * x := by
  rw [RoundsTo, if_pos (by rwa [abs_of_nonneg hx])] at h
  obtain ⟨hfin, hnear⟩ := h
  have hzero := (hnear f32Zero (by decide)).1
  rw [f32Value_zero, zero_sub, abs_neg, abs_of_nonneg hx, abs_le] at hzero
  exact ⟨hfin, by linarith, by linarith⟩

/-- A number from 1 on does not round below 1.0. -/
theorem one_le_of_roundsTo {x : ℚ} {c : F32} (h : RoundsTo x c) (hx : 1 ≤ x)
    (hbig : x < (2 ^ 25 - 1) * 2 ^ 103) : 1 ≤ f32Value c := by
  rw [RoundsTo, if_pos (by rwa [abs_of_nonneg (by linarith)])] at h
  have hone := (h.2 f32One (by decide)).1
  rw [f32Value_one, abs_sub_comm 1, abs_of_nonneg (sub_nonneg.2 hx), abs_le] at hone
  linarith

theorem toNat_nanos_lt (t : Nanos) : (t.toNat : ℚ) < 2 ^ 64 := by exact_mod_cast t.isLt

theorem f32OfInt_nanos_roundsTo (t : Nanos) : RoundsTo (t.toNat : ℚ) (f32OfInt t.toNat) := by
  exact_mod_cast f32OfInt_roundsTo t.toNat

theorem f32OfInt_nanos_mem (t : Nanos) : isFinite (f32OfInt t.toNat) = true ∧
    0 ≤ f32Value (f32OfInt t.toNat) ∧ f32Value (f32OfInt t.toNat) ≤ 2 * t.toNat :=
  mem_of_roundsTo_of_nonneg (f32OfInt_nanos_roundsTo t) (by positivity) (by linarith [toNat_nanos_lt t])

/-! ### The smoothing factor (R180, R181) -/

theorem toNat_effectiveTc (tc : Nanos) : (effectiveTc tc).toNat = if tc.toNat = 0 then 1 else tc.toNat := by
  have hzero : tc = 0 ↔ tc.toNat = 0 := BitVec.toNat_inj.symm
  simp only [effectiveTc, hzero]
  split <;> rfl

theorem one_le_f32OfInt_effectiveTc (tc : Nanos) : 1 ≤ f32Value (f32OfInt (effectiveTc tc).toNat) := by
  have hpos : 1 ≤ (effectiveTc tc).toNat := by rw [toNat_effectiveTc]; split <;> omega
  exact one_le_of_roundsTo (f32OfInt_nanos_roundsTo _) (by exact_mod_cast hpos)
    (by linarith [toNat_nanos_lt (effectiveTc tc)])

theorem smoothingFactor_roundsTo (dt tc : Nanos) :
    RoundsTo (f32Value (f32OfInt dt.toNat) / f32Value (f32OfInt (effectiveTc tc).toNat)) (smoothingFactor dt tc) :=
  fdiv_roundsTo (f32OfInt_nanos_mem dt).1 (f32OfInt_nanos_mem _).1 (by linarith [one_le_f32OfInt_effectiveTc tc])

theorem isFinite_smoothingFactor (dt tc : Nanos) : isFinite (smoothingFactor dt tc) = true := by
  obtain ⟨-, hlow, hhigh⟩ := f32OfInt_nanos_mem dt
  have hdiv := div_le_self hlow (one_le_f32OfInt_effectiveTc tc)
  exact (mem_of_roundsTo_of_nonneg (smoothingFactor_roundsTo dt tc)
    (div_nonneg hlow (by linarith [one_le_f32OfInt_effectiveTc tc])) (by linarith [toNat_nanos_lt dt])).1

theorem f32Neg_smoothingFactor (dt tc : Nanos) : f32Neg (smoothingFactor dt tc) = false := by
  have hzero : isZero (f32OfInt (effectiveTc tc).toNat) = false := by
    rw [← Bool.not_eq_true, isZero_iff, ← f32Value_eq_zero_iff]
    linarith [one_le_f32OfInt_effectiveTc tc]
  rw [smoothingFactor, f32Neg_fdiv (f32OfInt_nanos_mem dt).1 (f32OfInt_nanos_mem _).1 hzero, f32Neg_f32OfInt,
    f32Neg_f32OfInt, decide_eq_false (by omega), decide_eq_false (by omega)]
  rfl

theorem smoothingFactor_zero (tc : Nanos) : smoothingFactor 0 tc = 0 := by
  have hzero : f32Value (f32OfInt (0 : Nanos).toNat) = 0 := f32Value_f32OfInt (n := 0) (by norm_num)
  have hround := smoothingFactor_roundsTo 0 tc
  rw [hzero, zero_div] at hround
  have hvalue := roundsTo_exact hround (by norm_num) (isF32_of_eq 0 0)
  rw [← f32Pack_self (smoothingFactor 0 tc), f32Neg_smoothingFactor, (f32Value_eq_zero_iff _).1 hvalue]
  rfl

/-- Settles O36: the divisor is at least 1.0, so the quotient is at most the dividend, which is far from the overflow;
both signs are positive. -/
theorem factorIsFiniteAndNonnegative : Obligations.FactorIsFiniteAndNonnegative := fun dt tc =>
  ⟨isFinite_smoothingFactor dt tc, f32Neg_smoothingFactor dt tc, smoothingFactor_zero tc⟩

/-! ### FACTOR (R187) -/

theorem exec_factor_idle {s : State} (hidle : s.pos = .idle) (idx : Nat) :
    exec (.factor idx) s = .next { s with res := { s.res with resF := smoothingFactor (opaDtOf s) (tcOf s) } } :=
  whenIdle_idle hidle _

theorem toNat_u64Of (lo hi : Word) : (u64Of lo hi).toNat = hi.toNat * 2 ^ 32 + lo.toNat := by
  rw [u64Of, toNat_append_eq_add, Nat.mul_comm]

/-- Settles O17: past the guard FACTOR is `smoothingFactor`, with each u64 read as its two registers' number. -/
theorem factorResult : Obligations.FactorResult := by
  intro idx s hidle
  dsimp only
  rw [exec_factor_idle hidle, smoothingFactor, toNat_effectiveTc, tcOf, opaDtOf, toNat_u64Of, toNat_u64Of]
  push_cast
  rfl

/-! ### SMOOTH (R186) -/

theorem exec_smooth_idle {s : State} (hidle : s.pos = .idle) (idx : Nat) :
    exec (.smooth idx) s =
      .next (withResRgb (smoothRgb s.cfg.policy s.opnd.opbRgb s.opnd.opaRgb s.opnd.opaF) s) :=
  whenIdle_idle hidle _

/-- Settles O16: past the guard SMOOTH is `smoothRgb`, and the statement's clamp is `clampFactor`. -/
theorem smoothResult : Obligations.SmoothResult := by
  intro idx s hidle
  have hclamp : clampFactor s.opnd.opaF = if isNaN s.opnd.opaF = true ∨ flt s.opnd.opaF f32Zero = true then f32Zero
      else if flt f32One s.opnd.opaF = true then f32One else s.opnd.opaF := by
    simp only [clampFactor, Bool.or_eq_true]
  dsimp only
  rw [exec_smooth_idle hidle, ← hclamp]
  rfl

/-! ### The integer part (R183) -/

theorem truncInt_fneg (a : F32) : truncInt (fneg a) = - truncInt a := by
  unfold truncInt f32Units
  rw [f32Neg_fneg, f32Mag_fneg]
  cases f32Neg a <;> simp

theorem truncInt_of_nonneg {a : F32} (h : 0 ≤ f32Value a) : truncInt a = ⌊f32Value a⌋ := by
  have hint : 0 ≤ f32Int a := by
    rw [f32Value, le_div_iff₀ (by positivity), zero_mul] at h
    exact_mod_cast h
  rw [← floorInt_eq_floor, truncInt, floorInt]
  unfold f32Int at hint ⊢
  split_ifs at hint ⊢ <;> omega

theorem truncInt_of_nonpos {a : F32} (h : f32Value a ≤ 0) : truncInt a = ⌈f32Value a⌉ := by
  have hneg := truncInt_of_nonneg (a := fneg a) (by rw [f32Value_fneg]; linarith)
  rwa [truncInt_fneg, f32Value_fneg, Int.floor_neg, neg_inj] at hneg

/-- The integer part of a number between 0 and an integer is between them too. -/
theorem truncInt_mem {a : F32} {d : ℤ} (hlow : min 0 (d : ℚ) ≤ f32Value a) (hhigh : f32Value a ≤ max 0 (d : ℚ)) :
    min 0 d ≤ truncInt a ∧ truncInt a ≤ max 0 d := by
  obtain hpos | hneg := le_total 0 (f32Value a)
  · rw [truncInt_of_nonneg hpos]
    exact ⟨(min_le_left _ _).trans (Int.floor_nonneg.2 hpos), by exact_mod_cast (Int.floor_le _).trans hhigh⟩
  · rw [truncInt_of_nonpos hneg]
    exact ⟨by exact_mod_cast hlow.trans (Int.le_ceil _),
      (Int.ceil_le.2 (by exact_mod_cast hneg)).trans (le_max_left _ _)⟩

theorem truncInt_of_f32Value_eq {a : F32} {n : ℤ} (h : f32Value a = n) : truncInt a = n := by
  obtain hpos | hneg := le_total 0 (f32Value a)
  · rw [truncInt_of_nonneg hpos, h, Int.floor_intCast]
  · rw [truncInt_of_nonpos hneg, h, Int.ceil_intCast]

theorem truncInt_eq_zero {a : F32} (h : |f32Value a| < 1) : truncInt a = 0 := by
  obtain ⟨hlow, hhigh⟩ := abs_lt.1 h
  obtain hpos | hneg := le_total 0 (f32Value a)
  · rw [truncInt_of_nonneg hpos, Int.floor_eq_zero_iff]
    exact ⟨hpos, hhigh⟩
  · rw [truncInt_of_nonpos hneg, Int.ceil_eq_zero_iff]
    exact ⟨hlow, hneg⟩

/-! ### The clamped factor (R183) -/

theorem f32Value_mem_of_inUnit {a : F32} (h : inUnit a = true) :
    isFinite a = true ∧ 0 ≤ f32Value a ∧ f32Value a ≤ 1 := by
  obtain ⟨hnan, hlow, hhigh⟩ := (inUnit_iff a).1 h
  have hkeys : f32Key f32Zero ≤ f32Key a ∧ f32Key a ≤ f32Key f32One := by
    simpa [flt, hnan, show isNaN f32Zero = false ∧ isNaN f32One = false by decide] using And.intro hlow hhigh
  have htwo : flt a f32Two = true :=
    (flt_eq_true_iff _ _).2 ⟨hnan, by decide, hkeys.2.trans_lt (by decide)⟩
  have hfin := isFinite_of_between hkeys.1 (by decide) htwo
  rw [flt_eq_false_iff_of_isFinite hfin (by decide), f32Value_zero] at hlow
  rw [flt_eq_false_iff_of_isFinite (by decide) hfin, f32Value_one] at hhigh
  exact ⟨hfin, hlow, hhigh⟩

theorem inUnit_clampFactor (f : F32) : inUnit (clampFactor f) = true := by
  unfold clampFactor
  split_ifs with hlow hhigh
  · decide
  · decide
  · obtain ⟨hnan, hzero⟩ := Bool.or_eq_false_iff.1 (Bool.eq_false_iff.2 hlow)
    exact (inUnit_iff f).2 ⟨hnan, hzero, Bool.eq_false_iff.2 hhigh⟩

theorem clampFactor_mem (f : F32) :
    isFinite (clampFactor f) = true ∧ 0 ≤ f32Value (clampFactor f) ∧ f32Value (clampFactor f) ≤ 1 :=
  f32Value_mem_of_inUnit (inUnit_clampFactor f)

/-- The clamp keeps on which side of 1.0 a factor is, NaN counting as below. -/
theorem flt_clampFactor_one (f : F32) : flt (clampFactor f) f32One = false ↔ AtLeastOne f := by
  unfold clampFactor AtLeastOne
  split_ifs with hlow hhigh
  · refine iff_of_false (by decide) fun ⟨hnan, hone⟩ => ?_
    rw [hnan, Bool.false_or, flt_eq_true_iff] at hlow
    obtain ⟨-, -, hkey⟩ := hlow
    have hlt : flt f f32One = true := (flt_eq_true_iff _ _).2 ⟨hnan, by decide, hkey.trans (by decide)⟩
    exact Bool.false_ne_true (hone.symm.trans hlt)
  · exact iff_of_true (by decide) ⟨((flt_eq_true_iff _ _).1 hhigh).2.1, flt_asymm hhigh⟩
  · obtain ⟨hnan, -⟩ := Bool.or_eq_false_iff.1 (Bool.eq_false_iff.2 hlow)
    exact (and_iff_right hnan).symm

theorem one_le_clampFactor_iff (f : F32) : 1 ≤ f32Value (clampFactor f) ↔ AtLeastOne f := by
  rw [← flt_clampFactor_one, flt_eq_false_iff_of_isFinite (clampFactor_mem f).1 (by decide), f32Value_one]

theorem clampFactor_of_isZero {f : F32} (h : isZero f = true) : clampFactor f = f := by
  have hfin := isFinite_of_isZero h
  have hvalue : f32Value f = 0 := (f32Value_eq_zero_iff f).2 ((isZero_iff f).1 h)
  have hlow : flt f f32Zero = false := (flt_zero_eq_false_iff f).2 (.inr (.inr h))
  have hhigh : flt f32One f = false := by
    rw [flt_eq_false_iff_of_isFinite (by decide) hfin, f32Value_one, hvalue]
    norm_num
  simp [clampFactor, not_special_of_isFinite hfin, hlow, hhigh]

/-! ### One linear step (R183, R184) -/

/-- How far a channel moves that is d away from its target. -/
def linearStep (d : ℤ) (f : F32) : ℤ := truncInt (fmul (f32OfInt d) (clampFactor f))

section LinearStep
variable {d : ℤ} {f : F32} (hd : |d| ≤ 255)
include hd

theorem linearProduct_roundsTo :
    RoundsTo (d * f32Value (clampFactor f)) (fmul (f32OfInt d) (clampFactor f)) := by
  have hwide : |d| ≤ 256 := hd.trans (by norm_num)
  have h := fmul_roundsTo (isFinite_f32OfInt hwide) (clampFactor_mem f).1
  rwa [f32Value_f32OfInt hwide] at h

theorem abs_linearProduct_le : |d * f32Value (clampFactor f)| ≤ 256 := by
  obtain ⟨-, hlow, hhigh⟩ := clampFactor_mem f
  have hd' : |(d : ℚ)| ≤ 255 := by exact_mod_cast hd
  rw [abs_mul, abs_of_nonneg hlow]
  exact (mul_le_of_le_one_right (abs_nonneg _) hhigh).trans (by linarith)

/-- R184 (c): the step never goes past the target. -/
theorem linearStep_mem : min 0 d ≤ linearStep d f ∧ linearStep d f ≤ max 0 d := by
  obtain ⟨-, hlow, hhigh⟩ := clampFactor_mem f
  have hround := linearProduct_roundsTo (f := f) hd
  have hwide := abs_linearProduct_le (f := f) hd
  have hexact : IsF32 d := isF32_intCast (hd.trans (by norm_num))
  have hzero : IsF32 0 := isF32_of_eq 0 0
  obtain hpos | hneg := le_total 0 (d : ℚ)
  · refine truncInt_mem ?_ ?_
    · rw [min_eq_left hpos]
      exact le_roundsTo hround hwide hzero (mul_nonneg hpos hlow)
    · rw [max_eq_right hpos]
      exact roundsTo_le hround hwide hexact (mul_le_of_le_one_right hpos hhigh)
  · refine truncInt_mem ?_ ?_
    · rw [min_eq_right hneg]
      exact le_roundsTo hround hwide hexact (le_mul_of_le_one_right hneg hhigh)
    · rw [max_eq_left hneg]
      exact roundsTo_le hround hwide hzero (mul_nonpos_of_nonpos_of_nonneg hneg hlow)

/-- R184 (a). -/
theorem linearStep_of_atLeastOne (hf : AtLeastOne f) : linearStep d f = d := by
  have hone : f32Value (clampFactor f) = 1 :=
    le_antisymm (clampFactor_mem f).2.2 ((one_le_clampFactor_iff f).2 hf)
  have hround := linearProduct_roundsTo (f := f) hd
  have hwide := abs_linearProduct_le (f := f) hd
  rw [hone, mul_one] at hround hwide
  exact truncInt_of_f32Value_eq (roundsTo_exact hround hwide (isF32_intCast (hd.trans (by norm_num))))

/-- R184 (b). -/
theorem linearStep_of_isZero (hf : isZero f = true) : linearStep d f = 0 := by
  have hzero : f32Value (clampFactor f) = 0 := by
    rw [clampFactor_of_isZero hf, f32Value_eq_zero_iff]
    exact (isZero_iff f).1 hf
  have hround := linearProduct_roundsTo (f := f) hd
  have hwide := abs_linearProduct_le (f := f) hd
  rw [hzero, mul_zero] at hround hwide
  exact truncInt_of_f32Value_eq (by exact_mod_cast roundsTo_exact hround hwide (isF32_of_eq 0 0))

end LinearStep

/-- R184 (d): a weight below 1 leaves room for a binary32 value below 1, which the product does not round past. -/
theorem linearStep_of_unit_difference {d : ℤ} {f : F32} (hd : |d| = 1) (hf : ¬ AtLeastOne f) :
    linearStep d f = 0 := by
  rw [← one_le_clampFactor_iff, not_le] at hf
  obtain ⟨-, hlow, -⟩ := clampFactor_mem f
  have hbelow : f32Value (clampFactor f) ≤ 1 - 1 / 2 ^ 24 := by
    simpa using f32Value_le_of_lt_natCast (n := 1) le_rfl (by simpa using hf)
  have habs : |d * f32Value (clampFactor f)| ≤ 1 - 1 / 2 ^ 24 := by
    rwa [abs_mul, abs_of_nonneg hlow, show |(d : ℚ)| = 1 by exact_mod_cast hd, one_mul]
  obtain ⟨hdown, hup⟩ := abs_le.1 habs
  have hsmall : |d| ≤ 255 := by omega
  have hround := linearProduct_roundsTo (f := f) hsmall
  have hwide := abs_linearProduct_le (f := f) hsmall
  have hexact : IsF32 (1 - 1 / 2 ^ 24) := isF32_of_eq 16777215 24
  have hrounded : |f32Value (fmul (f32OfInt d) (clampFactor f))| ≤ 1 - 1 / 2 ^ 24 :=
    abs_le.2 ⟨le_roundsTo hround hwide hexact.neg hdown, roundsTo_le hround hwide hexact hup⟩
  exact truncInt_eq_zero (hrounded.trans_lt (by norm_num))

/-! ### One channel (R184) -/

section Channel
variable (prev tgt : Byte) (f : F32)

theorem abs_byte_sub_le : |(tgt.toNat : ℤ) - prev.toNat| ≤ 255 := by
  rw [abs_le]
  omega

theorem smoothChannel_eq : smoothChannel prev tgt f =
    BitVec.ofInt 8 (prev.toNat + linearStep (tgt.toNat - prev.toNat) f) := rfl

/-- The moved channel is a byte without any reduction. -/
theorem toNat_smoothChannel :
    ((smoothChannel prev tgt f).toNat : ℤ) = prev.toNat + linearStep (tgt.toNat - prev.toNat) f := by
  obtain ⟨hlow, hhigh⟩ := linearStep_mem (f := f) (abs_byte_sub_le prev tgt)
  rw [smoothChannel_eq, BitVec.toNat_ofInt]
  omega

theorem smoothChannel_between : Between (smoothChannel prev tgt f) prev tgt := by
  obtain ⟨hlow, hhigh⟩ := linearStep_mem (f := f) (abs_byte_sub_le prev tgt)
  have hvalue := toNat_smoothChannel prev tgt f
  unfold Between
  omega

variable {prev tgt f}

theorem smoothChannel_eq_of_step_all (h : linearStep (tgt.toNat - prev.toNat) f = tgt.toNat - prev.toNat) :
    smoothChannel prev tgt f = tgt := by
  have hvalue := toNat_smoothChannel prev tgt f
  exact BitVec.eq_of_toNat_eq (by omega)

theorem smoothChannel_eq_of_step_none (h : linearStep (tgt.toNat - prev.toNat) f = 0) :
    smoothChannel prev tgt f = prev := by
  have hvalue := toNat_smoothChannel prev tgt f
  exact BitVec.eq_of_toNat_eq (by omega)

theorem smoothChannel_of_atLeastOne (hf : AtLeastOne f) : smoothChannel prev tgt f = tgt :=
  smoothChannel_eq_of_step_all (linearStep_of_atLeastOne (abs_byte_sub_le prev tgt) hf)

theorem smoothChannel_of_isZero (hf : isZero f = true) : smoothChannel prev tgt f = prev :=
  smoothChannel_eq_of_step_none (linearStep_of_isZero (abs_byte_sub_le prev tgt) hf)

/-- A difference of one is closed or left, as the factor reaches 1.0 or not. -/
theorem smoothChannel_unit_difference (hunit : prev.toNat + 1 = tgt.toNat ∨ tgt.toNat + 1 = prev.toNat) :
    (smoothChannel prev tgt f = tgt ↔ AtLeastOne f) ∧ (smoothChannel prev tgt f = prev ↔ ¬ AtLeastOne f) := by
  have hne : prev ≠ tgt := by rintro rfl; omega
  by_cases hf : AtLeastOne f
  · simp [smoothChannel_of_atLeastOne hf, hf, hne.symm]
  · have hd : |(tgt.toNat : ℤ) - prev.toNat| = 1 := by rw [abs_eq one_pos.le]; omega
    simp [smoothChannel_eq_of_step_none (linearStep_of_unit_difference hd hf), hf, hne]

end Channel

/-- Settles O35: every claim is one about the step, which is all of the difference, none of it, or a part between. -/
theorem linearSmoothingProperties : Obligations.LinearSmoothingProperties :=
  ⟨fun _ _ _ => rfl, fun prev tgt f => ⟨smoothChannel_of_atLeastOne, smoothChannel_of_isZero,
    smoothChannel_between prev tgt f, smoothChannel_unit_difference⟩⟩

end Sys2Proof.Machine

/-! ## The frame governor

Each of its steps takes the answer of one call and sets the governor's state and the sequencer's place. The two
stopwatch functions are differences of the readings as numbers, so the statements' comparisons of numbers are the
model's comparisons of words. -/
namespace Sys2Proof.Machine

section FrameGovernor
open Sys2Proof.Statements
variable {s : State}

/-! ### The stopwatch, and a duration in two registers (R201, R205) -/

theorem toNat_elapsedSince (start t : Nanos) : (elapsedSince start t).toNat = t.toNat - start.toNat := by
  unfold elapsedSince
  split
  next hle => exact BitVec.toNat_sub_of_le hle
  next hlt => exact (Nat.sub_eq_zero_of_le (BitVec.not_le.1 hlt).le).symm

theorem u64Of_loWord_hiWord (t : Nanos) : u64Of (loWord t) (hiWord t) = t :=
  (BitVec.extractLsb'_append_extractLsb'_eq_extractLsb' rfl).trans BitVec.extractLsb'_eq_self

/-! ### Answered calls and the own step -/

theorem callNow_answered {t : Nanos} {ts : List Nanos} (h : s.answers.times = t :: ts) :
    callNow s = some (t, afterCall .now { s.answers with times := ts } s) := by
  rw [callNow, h]; rfl

theorem callCapture_answered {ok : Bool} {cs : List Bool} (h : s.answers.captures = ok :: cs) :
    callCapture s = some (ok, afterCall .captureFrame { s.answers with captures := cs } s) := by
  rw [callCapture, h]; rfl

theorem callSleep_answered {d : Nanos} {n : Nat} (h : s.answers.sleeps = n + 1) :
    callSleep d s = some (afterCall (.sleep d) { s.answers with sleeps := n } s) := by
  rw [callSleep, h]; rfl

/-- With no CMD write waiting, the own step is the sequencer's. -/
theorem ownStep_of_seqProgress {t : State} (hwait : s.cmdWait = none) (h : seqProgress s = .done t) :
    ownStep s = .next t := by
  rw [ownStep, ownProgress, hwait]
  exact congrArg (settle s) h

/-! ### The refresh tick (R205) -/

theorem stepTick_answered {t : Nanos} {ts : List Nanos} (h : s.answers.times = t :: ts) :
    stepTick s = .done { afterCall .now { s.answers with times := ts } s with
      gov := { s.gov with rswStart := t }
      cnt := { s.cnt with
        lastDtLo := loWord (elapsedSince s.gov.rswStart t), lastDtHi := hiWord (elapsedSince s.gov.rswStart t)
        lastFactor := smoothingFactor (elapsedSince s.gov.rswStart t) (tcOf s) }
      iter := { s.iter with
        dt := elapsedSince s.gov.rswStart t
        factor := smoothingFactor (elapsedSince s.gov.rswStart t) (tcOf s) }
      pos := .capCheck } := by
  rw [stepTick, callNow_answered h]; rfl

/-- Settles O40: the answered tick, with the delta as a number and as the number of its two registers. -/
theorem tickStep : Obligations.TickStep := by
  intro s t ts hwait hpos htimes
  have hseq : seqProgress s = stepTick s := by rw [seqProgress, hpos]
  refine ⟨_, ownStep_of_seqProgress hwait (hseq.trans (stepTick_answered htimes)), ?_,
    toNat_elapsedSince .., rfl, rfl, rfl⟩
  rw [← toNat_u64Of, u64Of_loWord_hiWord, toNat_elapsedSince]

/-! ### The capture decision, attempt and outcome (R203, R204) -/

theorem stepCapCheck_invalid (h : s.gov.capValid = false) : stepCapCheck s = .done { s with pos := .capture } := by
  simp [stepCapCheck, h]

theorem stepCapCheck_answered {t : Nanos} {ts : List Nanos} (hvalid : s.gov.capValid = true)
    (h : s.answers.times = t :: ts) :
    stepCapCheck s = .done { afterCall .now { s.answers with times := ts } s with
      gov := { s.gov with cswStart := startAfter s.gov.cswStart t }
      pos := if (capivOf s).toNat < t.toNat - s.gov.cswStart.toNat then .capture else .frame } := by
  rw [stepCapCheck, if_pos hvalid, callNow_answered h, ← toNat_elapsedSince]
  rfl

theorem stepCapture_answered {ok : Bool} {cs : List Bool} (h : s.answers.captures = ok :: cs) :
    stepCapture s = .done { afterCall .captureFrame { s.answers with captures := cs } s with
      pos := if ok = true then .captured else .capFail } := by
  rw [stepCapture, callCapture_answered h]
  cases ok <;> rfl

theorem stepCaptured_answered {t : Nanos} {ts : List Nanos} (h : s.answers.times = t :: ts) :
    stepCaptured s = .done { afterCall .now { s.answers with times := ts } s with
      gov := { s.gov with cswStart := t, capValid := true }, pos := .frame } := by
  rw [stepCaptured, callNow_answered h]; rfl

/-- Settles O41: each clause is the step at one place, with its call answered. -/
theorem captureSteps : Obligations.CaptureSteps := by
  intro s hwait
  refine ⟨fun hpos hvalid => ?_, fun t ts hpos hvalid htimes => ?_, fun ok cs hpos hcaptures => ?_,
    fun t ts hpos htimes => ?_⟩
  all_goals
    apply ownStep_of_seqProgress hwait
    rw [seqProgress, hpos]
  · exact stepCapCheck_invalid hvalid
  · exact stepCapCheck_answered hvalid htimes
  · exact stepCapture_answered hcaptures
  · exact stepCaptured_answered htimes

/-! ### The pace sleep and the end of the iteration (R206, R207) -/

theorem stepPace_answered {t : Nanos} {ts : List Nanos} (h : s.answers.times = t :: ts) :
    stepPace s = .done { afterCall .now { s.answers with times := ts } s with
      gov := { s.gov with rswStart := startAfter s.gov.rswStart t }
      pos := if t.toNat - s.gov.rswStart.toNat < (refreshOf s).toNat
        then .paceSleep (refreshOf s - elapsedSince s.gov.rswStart t) else .finish } := by
  rw [stepPace, callNow_answered h, ← toNat_elapsedSince]
  rfl

theorem stepPaceSleep_answered {d : Nanos} {n : Nat} (h : s.answers.sleeps = n + 1) :
    stepPaceSleep d s = .done { afterCall (.sleep d) { s.answers with sleeps := n } s with pos := .finish } := by
  rw [stepPaceSleep, callSleep_answered h]

/-- Settles O46: the sleep's length is the difference of words, and the elapsed time is below the period where it
is used, so it is the difference of numbers. -/
theorem paceSteps : Obligations.PaceSteps := by
  intro s hwait
  refine ⟨fun t ts hpos htimes => ⟨refreshOf s - elapsedSince s.gov.rswStart t, fun hel => ?_, ?_⟩,
    fun d n hpos hsleeps => ?_, fun hpos => ?_⟩
  · rw [← toNat_elapsedSince] at hel ⊢
    exact BitVec.toNat_sub_of_le hel.le
  all_goals
    apply ownStep_of_seqProgress hwait
    rw [seqProgress, hpos]
  · exact stepPace_answered htimes
  · exact stepPaceSleep_answered hsleeps
  · rfl

end FrameGovernor

end Sys2Proof.Machine

/-! ## The protocol writer

A write is exact, or it is short or failed (`ShortWrite`). Each part of a frame's emission has one equation per way
its writes can go; EMIT, S7 and a resumed EMIT are the same equations behind their guard, place or wait. -/
namespace Sys2Proof.Machine

section ProtocolWriter
open Sys2Proof.Statements
variable {s : State}

/-! ### The header's count and checksum bytes (R220, R225) -/

section Header
variable {n : Nat}

theorem toNat_countHigh (hn : n ≤ 65536) : (countHigh n).toNat = (n - 1) / 256 := by
  rw [countHigh, BitVec.toNat_ofNat]
  omega

theorem toNat_countLow : (countLow n).toNat = (n - 1) % 256 := BitVec.toNat_ofNat ..

theorem toNat_headerChecksum : (headerChecksum n).toNat = (countHigh n).toNat ^^^ (countLow n).toNat ^^^ 0x55 := by
  rw [headerChecksum, BitVec.toNat_xor, BitVec.toNat_xor]
  rfl

theorem count_xor_headerChecksum : countHigh n ^^^ countLow n ^^^ headerChecksum n = 0x55#8 := by
  rw [headerChecksum, ← BitVec.xor_assoc, BitVec.xor_self, BitVec.zero_xor]

theorem header_injective {m : Nat} (hn : 1 ≤ n) (hn' : n ≤ 65536) (hm : 1 ≤ m) (hm' : m ≤ 65536)
    (h : header n = header m) : n = m := by
  simp only [header, List.cons.injEq] at h
  obtain ⟨-, -, -, hhigh, hlow, -⟩ := h
  replace hhigh := congrArg BitVec.toNat hhigh
  replace hlow := congrArg BitVec.toNat hlow
  rw [toNat_countHigh hn', toNat_countHigh hm'] at hhigh
  rw [toNat_countLow, toNat_countLow] at hlow
  omega

end Header

/-- Settles O37: the three computed bytes as numbers, their XOR, and N - 1 put together again from two of them. -/
theorem headerChecksumAndCountAreRecoverable : Obligations.HeaderChecksumAndCountAreRecoverable := by
  refine ⟨fun n _ hn => ?_, fun n => ?_, fun n m => header_injective⟩
  · exact ⟨_, _, _, rfl, toNat_countHigh hn, toNat_countLow, toNat_headerChecksum⟩
  · exact ⟨_, _, _, rfl, count_xor_headerChecksum⟩

/-! ### HDR (R226) -/

theorem exec_hdr_idle (hidle : s.pos = .idle) (hcount : ledCountValid s = true) (idx : Nat) :
    exec (.hdr idx) s = .next { s with res := { s.res with
      resHdr0 := countHigh (ledN s) ++ 0x61#8 ++ 0x64#8 ++ 0x41#8
      resHdr1 := headerChecksum (ledN s) ++ countLow (ledN s) } } :=
  (whenIdle_idle hidle _).trans (whenLedCount_ok hcount _)

/-- Settles O18: past its guards HDR packs the header's bytes, whose numbers are known. -/
theorem hdrResult : Obligations.HdrResult := by
  intro idx s hidle hparams n hi lo hpos hmax
  have hn : n ≤ 65536 := hmax.trans hparams.2.1
  refine ⟨_, exec_hdr_idle hidle (ledCountValid_iff.2 ⟨hpos, hmax⟩) idx, rfl, ?_, ?_⟩
  · show (countHigh n ++ 0x61#8 ++ 0x64#8 ++ 0x41#8).toNat = _
    rw [toNat_append_eq_add, toNat_append_eq_add, toNat_append_eq_add, toNat_countHigh hn]
    simp only [BitVec.toNat_ofNat]
    omega
  · show (headerChecksum n ++ countLow n).toNat = _
    rw [toNat_append_eq_add, toNat_headerChecksum, toNat_countHigh hn, toNat_countLow, Nat.mul_comm]

/-! ### The payload (R221) -/

theorem unpackRgb_readWord (m : Memory) (a : Nat) :
    unpackRgb (readWord m a) = ⟨readByte m a, readByte m (a + 1), readByte m (a + 2)⟩ := by
  rw [unpackRgb, readWord]
  congr 1
  all_goals
    apply BitVec.eq_of_toNat_eq
    simp only [BitVec.extractLsb'_toNat, toNat_append_eq_add, Nat.shiftRight_eq_div_pow]
    omega

theorem readOut_eq (s : State) (i : Nat) :
    readOut s i = ⟨readByte s.mem (0x40000 + 4 * i), readByte s.mem (0x40000 + 4 * i + 1),
      readByte s.mem (0x40000 + 4 * i + 2)⟩ :=
  unpackRgb_readWord ..

theorem payload_succ (s : State) (n : Nat) :
    payload s (n + 1) = payload s n ++ [(readOut s n).r, (readOut s n).g, (readOut s n).b] := by
  simp [payload, List.range_succ]

theorem payload_getElem? {n i j : Nat} (hi : i < n) (hj : j < 3) :
    (payload s n)[3 * i + j]? = [(readOut s i).r, (readOut s i).g, (readOut s i).b][j]? := by
  induction n with
  | zero => exact absurd hi (Nat.not_lt_zero i)
  | succ n ih =>
    rw [payload_succ]
    obtain hlt | rfl : i < n ∨ i = n := by omega
    · rw [List.getElem?_append_left (by rw [payload_length]; omega), ih hlt]
    · rw [List.getElem?_append_right (by rw [payload_length]; omega), payload_length, Nat.add_sub_cancel_left]

/-- Settles O21: triple i of the payload is OUTBUF[i], whose channels are the bytes of its word. -/
theorem payloadIsTheOutputBuffer : Obligations.PayloadIsTheOutputBuffer := by
  refine fun s n => ⟨payload_length s n, fun i j hi hj => ?_⟩
  rw [payload_getElem? hi hj, readOut_eq]
  interval_cases j <;> rfl

/-! ### One transport write (R222, R333) -/

/-- An answer to a write of `len` bytes that is no success: Ok of fewer than `len`, or Err, with j first bytes on
the wire. -/
def ShortWrite (a : WriteAnswer) (j len : Nat) : Prop := (a = .ok j ∧ j < len) ∨ (a = .err j ∧ j ≤ len)

/-- The state after a write of `bytes` that put `accepted` on the wire, leaving the write answers `ws`. -/
def afterWrite (bytes accepted : List Byte) (ws : List WriteAnswer) (s : State) : State :=
  { afterCall (.write bytes) { s.answers with writes := ws } s with wire := s.wire ++ accepted }

section Writes
variable {bytes : List Byte} {a : WriteAnswer} {j : Nat} {ws : List WriteAnswer}

theorem callWrite_exact (h : s.answers.writes = .ok bytes.length :: ws) :
    callWrite bytes s = .returned true (afterWrite bytes bytes ws s) := by
  rw [callWrite_ok h le_rfl, List.take_length, beq_self_eq_true]
  rfl

theorem callWrite_short (h : s.answers.writes = a :: ws) (hshort : ShortWrite a j bytes.length) :
    callWrite bytes s = .returned false (afterWrite bytes (bytes.take j) ws s) := by
  obtain ⟨rfl, hj⟩ | ⟨rfl, -⟩ := hshort
  · rw [callWrite_ok h hj.le, beq_false_of_ne hj.ne]
    rfl
  · exact callWrite_err h

/-! ### The two writes of a frame (R222, R223) -/

/-- The frame counted as sent. -/
def countSent (s : State) : State := { s with cnt := { s.cnt with framesSent := s.cnt.framesSent + 1 } }

theorem sendHeader_exact (h : s.answers.writes = .ok 6 :: ws) :
    sendHeader s = .sent (afterWrite (header (ledN s)) (header (ledN s)) ws s) := by
  rw [sendHeader, callWrite_exact h]

theorem sendHeader_short (h : s.answers.writes = a :: ws) (hshort : ShortWrite a j 6) :
    sendHeader s =
      .dropped (dropFrame (raise .eTxHdr (afterWrite (header (ledN s)) ((header (ledN s)).take j) ws s))) := by
  rw [sendHeader, callWrite_short h hshort]

theorem sendPayload_exact (h : s.answers.writes = .ok (3 * ledN s) :: ws) :
    sendPayload s = .sent (countSent (afterWrite (payload s (ledN s)) (payload s (ledN s)) ws s)) := by
  rw [← payload_length s] at h
  rw [sendPayload, callWrite_exact h]
  rfl

theorem sendPayload_short (h : s.answers.writes = a :: ws) (hshort : ShortWrite a j (3 * ledN s)) :
    sendPayload s =
      .dropped (dropFrame (raise .eTxPay (afterWrite (payload s (ledN s)) ((payload s (ledN s)).take j) ws s))) := by
  rw [← payload_length s] at hshort
  rw [sendPayload, callWrite_short h hshort]

/-! ### S7 of the sequencer (R250, R255) -/

theorem stepEmitHeader_sent {t : State} (h : sendHeader s = .sent t) :
    stepEmitHeader s = .done { t with pos := .emitPayload } := by rw [stepEmitHeader, h]

theorem stepEmitHeader_dropped {t : State} (h : sendHeader s = .dropped t) :
    stepEmitHeader s = .done { t with pos := .pace } := by rw [stepEmitHeader, h]

theorem stepEmitPayload_returned {t : State} (h : sendPayload s = .sent t ∨ sendPayload s = .dropped t) :
    stepEmitPayload s = .done { t with pos := .pace } := by
  obtain h | h := h <;> rw [stepEmitPayload, h]

/-! ### EMIT, from either of its writes on (R227) -/

theorem emitPayloadPart_returned {t : State} (h : sendPayload s = .sent t ∨ sendPayload s = .dropped t) :
    emitPayloadPart s = .done { t with cmdWait := none } := by
  obtain h | h := h <;> rw [emitPayloadPart, h]

theorem emitPayloadPart_unanswered (h : s.answers.writes = []) : emitPayloadPart s = .waiting := by
  rw [emitPayloadPart, sendPayload, callWrite, h]

theorem emitWholeFrame_dropped {t : State} (h : sendHeader s = .dropped t) :
    emitWholeFrame s = .done { t with cmdWait := none } := by
  rw [emitWholeFrame, h]

theorem emitWholeFrame_sent_waiting {t : State} (h : sendHeader s = .sent t) (hpay : emitPayloadPart t = .waiting) :
    emitWholeFrame s = .done { t with cmdWait := some .emitPayload } := by
  simp only [emitWholeFrame, h, hpay]

theorem emitWholeFrame_sent_done {t u : State} (h : sendHeader s = .sent t) (hpay : emitPayloadPart t = .done u) :
    emitWholeFrame s = .done u := by
  simp only [emitWholeFrame, h, hpay]

/-! ### EMIT from its header write on, by the answers of both writes (R222, R227) -/

theorem emitWholeFrame_short_header (h : s.answers.writes = a :: ws) (hshort : ShortWrite a j 6) :
    emitWholeFrame s = .done { dropFrame (raise .eTxHdr
      (afterWrite (header (ledN s)) ((header (ledN s)).take j) ws s)) with cmdWait := none } :=
  emitWholeFrame_dropped (sendHeader_short h hshort)

theorem emitWholeFrame_header_only (h : s.answers.writes = [.ok 6]) :
    emitWholeFrame s =
      .done { afterWrite (header (ledN s)) (header (ledN s)) [] s with cmdWait := some .emitPayload } :=
  emitWholeFrame_sent_waiting (sendHeader_exact h) (emitPayloadPart_unanswered rfl)

/-- The state after both writes of a frame, the second with `accepted` on the wire, leaving the write answers `ws`. -/
def afterBothWrites (accepted : List Byte) (ws : List WriteAnswer) (s : State) : State :=
  { s with
    wire := s.wire ++ header (ledN s) ++ accepted, answers := { s.answers with writes := ws }
    calls := s.calls ++ [.write (header (ledN s)), .write (payload s (ledN s))] }

theorem afterWrite_payload_afterWrite_header (accepted : List Byte) (ws ws' : List WriteAnswer) (s : State) :
    afterWrite (payload s (ledN s)) accepted ws (afterWrite (header (ledN s)) (header (ledN s)) ws' s) =
      afterBothWrites accepted ws s := by
  simp [afterWrite, afterCall, afterBothWrites]

theorem emitWholeFrame_exact (h : s.answers.writes = .ok 6 :: .ok (3 * ledN s) :: ws) :
    emitWholeFrame s =
      .done { countSent (afterBothWrites (payload s (ledN s)) ws s) with cmdWait := none } := by
  rw [← afterWrite_payload_afterWrite_header _ _ (.ok (3 * ledN s) :: ws)]
  exact emitWholeFrame_sent_done (sendHeader_exact h) (emitPayloadPart_returned (.inl (sendPayload_exact rfl)))

theorem emitWholeFrame_short_payload (h : s.answers.writes = .ok 6 :: a :: ws)
    (hshort : ShortWrite a j (3 * ledN s)) :
    emitWholeFrame s = .done { dropFrame (raise .eTxPay
      (afterBothWrites ((payload s (ledN s)).take j) ws s)) with cmdWait := none } := by
  rw [← afterWrite_payload_afterWrite_header _ _ (a :: ws)]
  exact emitWholeFrame_sent_done (sendHeader_exact h) (emitPayloadPart_returned (.inr (sendPayload_short rfl hshort)))

end Writes

/-- Settles O45: at each place of S7 the write is exact or short. -/
theorem emissionSteps : Obligations.EmissionSteps := by
  intro s a ws hwait hwrites
  refine ⟨fun hpos => ⟨fun hexact => ?_, fun j hshort => ?_⟩, fun hpos => ⟨fun hexact => ?_, fun j hshort => ?_⟩⟩
  all_goals
    apply ownStep_of_seqProgress hwait
    rw [seqProgress, hpos]
  · exact stepEmitHeader_sent (sendHeader_exact (hexact ▸ hwrites))
  · exact stepEmitHeader_dropped (sendHeader_short hwrites hshort)
  · exact stepEmitPayload_returned (.inl (sendPayload_exact (hexact ▸ hwrites)))
  · exact stepEmitPayload_returned (.inr (sendPayload_short hwrites hshort))

/-! ### EMIT as a command (R227) -/

theorem exec_emit_done {t : State} (hidle : s.pos = .idle) (hpos : 1 ≤ ledN s) (hmax : ledN s ≤ s.params.nMax)
    (h : emitWholeFrame s = .done t) (idx : Nat) : exec (.emit idx) s = .next t := by
  show execEmit s = .next t
  rw [execEmit, whenIdle_idle hidle, whenLedCount_ok (ledCountValid_iff.2 ⟨hpos, hmax⟩), h, settle]

/-- Settles O19: past its guards EMIT is the whole frame with both writes exact. -/
theorem emitSendsWholeFrame : Obligations.EmitSendsWholeFrame := by
  intro idx s ws hidle hwait hpos hmax hwrites
  rw [exec_emit_done hidle hpos hmax (emitWholeFrame_exact hwrites), ← hwait]
  rfl

/-- Settles O20: past its guards EMIT is the whole frame with the header write short, or the payload write. -/
theorem emitDropsShortOrFailedFrames : Obligations.EmitDropsShortOrFailedFrames := by
  intro idx s a j ws hidle hwait hpos hmax
  refine ⟨fun hwrites hshort => ?_, fun hwrites hshort => ?_⟩
  · rw [exec_emit_done hidle hpos hmax (emitWholeFrame_short_header hwrites hshort), ← hwait]
    rfl
  · rw [exec_emit_done hidle hpos hmax (emitWholeFrame_short_payload hwrites hshort), ← hwait]
    rfl

/-! ### A CMD write resumed (R240) -/

/-- With a CMD write waiting, the own step is the rest of its command. -/
theorem ownStep_of_resumeCommand {w : CmdWait} {t : State} (hwait : s.cmdWait = some w)
    (h : resumeCommand w s = .done t) : ownStep s = .next t := by
  rw [ownStep, ownProgress, hwait]
  exact congrArg (settle s) h

theorem startClockPart_answered {t : Nanos} {ts : List Nanos} (h : s.answers.times = t :: ts) :
    startClockPart s = .done { afterCall .now { s.answers with times := ts } s with
      gov := { s.gov with rswStart := t }, pos := .boundary, cmdWait := none } := by
  rw [startClockPart, callNow_answered h]; rfl

theorem afterCall_afterCall (c c' : Call) (rest rest' : Answers) (s : State) :
    afterCall c' rest' (afterCall c rest s) = { s with answers := rest', calls := s.calls ++ [c, c'] } := by
  simp [afterCall]

/-- Settles O60: each wait goes on as the part of its command from there on, by the answers that are there. -/
theorem waitingCommandsComplete : Obligations.WaitingCommandsComplete := by
  refine fun s => ⟨fun t ts hwait htimes => ?_,
    fun a ws hwait hwrites => ⟨fun j hshort => ?_, fun hexact hnone => ?_,
      fun b vs hexact hanswered => ⟨fun hexact' => ?_, fun j hshort => ?_⟩⟩,
    fun a ws hwait hwrites => ⟨fun hexact => ?_, fun j hshort => ?_⟩⟩
  all_goals apply ownStep_of_resumeCommand hwait
  · exact startClockPart_answered htimes
  · exact emitWholeFrame_short_header hwrites hshort
  · subst hexact hnone
    exact emitWholeFrame_header_only hwrites
  · rw [afterCall_afterCall]
    exact emitWholeFrame_exact (by rw [hwrites, hexact, hanswered, hexact'])
  · rw [afterCall_afterCall]
    exact emitWholeFrame_short_payload (by rw [hwrites, hexact, hanswered]) hshort
  · exact emitPayloadPart_returned (.inl (sendPayload_exact (hexact ▸ hwrites)))
  · exact emitPayloadPart_returned (.inr (sendPayload_short hwrites hshort))

end ProtocolWriter

end Sys2Proof.Machine

/-! ## START's check (R241) -/
namespace Sys2Proof.Machine

section StartCheck
open Sys2Proof.Statements

theorem settingsValid_iff (t : ChannelSettings) :
    settingsValid t = true ↔ flt f32Zero t.gamma = true ∧ isNaN t.blacklevel = false ∧
      flt t.blacklevel f32Zero = false ∧ flt f32One t.blacklevel = false := by
  simp [settingsValid, and_assoc]

theorem gainValid_iff (g : F32) : gainValid g = true ↔ isNaN g = false ∧ flt g f32Zero = false := by
  simp [gainValid]

/-- The check of an entry: its range, then its three channels and its two gains where it has them. -/
theorem entryValid_iff_entryRule (s : State) (k : Nat) : entryValid s k = true ↔ EntryRule s k := by
  have hwhere (has ok : Bool) : (!has || ok) = true ↔ (has = true → ok = true) := by cases has <;> simp
  simp only [entryValid, EntryRule, Bool.and_eq_true, hwhere, settingsValid_iff, gainValid_iff, decide_eq_true_eq,
    List.forall_mem_cons, List.not_mem_nil, IsEmpty.forall_iff, implies_true,
    and_true, and_assoc]
  rfl

theorem configValid_iff (s : State) : configValid s = true ↔
    ledCountValid s = true ∧ xformK s ≤ s.params.kMax ∧ ∀ k, k < xformK s → EntryRule s k := by
  simp [configValid, entryValid_iff_entryRule, and_assoc]

/-- Settles O22: the check is a conjunction over the entries in use, each as its rule says. -/
theorem startCheckIsTheRule : Obligations.StartCheckIsTheRule := by
  intro s
  rw [configValid_iff, ledCountValid_iff, and_assoc]

end StartCheck

end Sys2Proof.Machine

/-! ## Every step keeps the invariant

`Inv` reads seven fields of the state (`invFields`), and most of what a step does leaves all seven. The rest is: the
two stores to memory and the clearing of the output buffer, which stay in their windows and keep reserved bits; the
sequencer's places, where KeepsConfig carries START's check along; and the CMD writes that wait. -/
namespace Sys2Proof.Machine

section Invariant
open Sys2Proof.Statements
variable {s t : State}

/-! ### The fields the invariant reads -/

/-- The fields the invariant reads. -/
def invFields (s : State) : Params × ConfigRegs × Bool × Memory × SeqPos × Nat × Option CmdWait :=
  (s.params, s.cfg, s.stopPend, s.mem, s.pos, s.iter.led, s.cmdWait)

theorem invFields_withWait (h : invFields t = invFields s) (w : Option CmdWait) :
    invFields { t with cmdWait := w } = invFields { s with cmdWait := w } := by
  simp_all [invFields]

theorem Inv.of_invFields (h : Inv s) (hsame : invFields t = invFields s) : Inv t := by
  cases s; cases t
  obtain ⟨rfl, rfl, rfl, rfl, rfl, hled, rfl⟩ := by simpa [invFields] using hsame
  exact ⟨h.params, h.canonical, h.mapped, h.reserved, h.running, fun hp => (hled ▸ h.ledBound hp :), h.stopped,
    h.waiting⟩

/-! ### Memory -/

/-- What the invariant says of the memory. -/
structure MemInv (s : State) : Prop where
  canonical : Memory.wf s.mem
  mapped : MemMapped s
  reserved : ReservedZero s

theorem Inv.memInv (h : Inv s) : MemInv s := ⟨h.canonical, h.mapped, h.reserved⟩

theorem MemInv.congr (h : MemInv s) (hparams : t.params = s.params) (hmem : t.mem = s.mem) : MemInv t := by
  cases s; cases t
  subst hparams hmem
  exact ⟨h.canonical, h.mapped, h.reserved⟩

theorem mem_writeWord {m : Memory} {a : Nat} {v : Word} {c : Host.Cell} (h : c ∈ writeWord m a v) :
    c ∈ m ∨ (a ≤ c.1 ∧ c.1 < a + 4) := by
  rw [writeWord] at h
  obtain h | ⟨hc, -⟩ := mem_writeByte h
  · obtain h | ⟨hc, -⟩ := mem_writeByte h
    · obtain h | ⟨hc, -⟩ := mem_writeByte h
      · exact (mem_writeByte h).imp_right fun ⟨hc, _⟩ => by omega
      · omega
    · omega
  · omega

theorem readByte_writeWord_of_outside {m : Memory} {a b : Nat} (v : Word) (h : b < a ∨ a + 4 ≤ b) :
    readByte (writeWord m a v) b = readByte m b := by
  rw [readByte_writeWord]
  split_ifs <;> first | rfl | omega

theorem memMapped_writeWord (h : MemMapped s) {a : Nat} (v : Word)
    (ha : (xfAddr 0 0 ≤ a ∧ a + 4 ≤ xfEnd s.params) ∨ (outAddr 0 ≤ a ∧ a + 4 ≤ outEnd s.params)) :
    MemMapped { s with mem := writeWord s.mem a v } := by
  intro c hc
  obtain hc | hc := mem_writeWord hc
  · exact h c hc
  · show (xfAddr 0 0 ≤ c.1 ∧ c.1 < xfEnd s.params) ∨ (outAddr 0 ≤ c.1 ∧ c.1 < outEnd s.params)
    omega

/-- Word 0 of an entry keeps its reserved bits, and no other word shares a byte with it or with the output buffer. -/
theorem memInv_writeXf (hparams : s.params.valid) (h : MemInv s) {k w : Nat} (hk : k < s.params.kMax) (hw : w < 16)
    (v : Word) : MemInv { s with mem := writeWord s.mem (xfAddr k w) (xfWordMask w v) } := by
  obtain ⟨-, -, -, hkMax⟩ := hparams
  obtain ⟨hctl, hout⟩ := h.reserved
  refine ⟨wf_writeWord _ _ h.canonical, memMapped_writeWord h.mapped _ (.inl ?_), fun k' hk' => ?_, fun i => ?_⟩
  · unfold xfEnd xfAddr; omega
  · show readWord (writeWord s.mem (xfAddr k w) (xfWordMask w v)) (xfAddr k' 0) &&& ~~~3#32 = 0
    by_cases hsame : k' = k ∧ w = 0
    · obtain ⟨rfl, rfl⟩ := hsame
      rw [readWord_writeWord_same, xfWordMask, if_pos rfl, BitVec.and_assoc]
      exact BitVec.and_zero
    · rw [readWord_writeWord_disjoint _ _ _ _ (by unfold xfAddr; omega)]
      exact hctl k' hk'
  · rw [readByte_writeWord_of_outside _ (by unfold xfAddr outAddr; omega)]
    exact hout i

/-- A packed colour has nothing above its three channels (R37). -/
theorem packRgb_reserved (c : Rgb8) : (packRgb c).extractLsb' 24 8 = 0 :=
  (extractLsb'_append_byte _ _ 16).trans ((extractLsb'_append_byte _ _ 8).trans
    ((extractLsb'_append_byte _ _ 0).trans BitVec.extractLsb'_eq_self))

theorem memInv_writeOut (hparams : s.params.valid) (h : MemInv s) {i : Nat} (hi : i < s.params.nMax) (c : Rgb8) :
    MemInv { s with mem := writeOut s.mem i c } := by
  obtain ⟨-, -, -, hkMax⟩ := hparams
  obtain ⟨hctl, hout⟩ := h.reserved
  refine ⟨wf_writeOut _ _ h.canonical, memMapped_writeWord h.mapped _ (.inr ?_),
    fun k (hk : k < s.params.kMax) => ?_, fun j => ?_⟩
  · unfold outEnd outAddr; omega
  · show readWord (writeWord s.mem (outAddr i) (packRgb c)) (xfAddr k 0) &&& ~~~3#32 = 0
    rw [readWord_writeWord_disjoint _ _ _ _ (by unfold xfAddr outAddr; omega)]
    exact hctl k hk
  · show readByte (writeWord s.mem (outAddr i) (packRgb c)) (outAddr j + 3) = 0
    obtain rfl | hne := eq_or_ne j i
    · simp [readByte_writeWord, packRgb_reserved]
    · rw [readByte_writeWord_of_outside _ (by unfold outAddr; omega)]
      exact hout j

theorem memInv_clearOut (hparams : s.params.valid) (h : MemInv s) :
    MemInv { s with mem := clearRange s.mem (outAddr 0) (outEnd s.params) } := by
  obtain ⟨-, -, -, hkMax⟩ := hparams
  obtain ⟨hctl, hout⟩ := h.reserved
  refine ⟨wf_clearRange _ _ h.canonical, fun c hc => h.mapped c (List.mem_of_mem_filter hc),
    fun k (hk : k < s.params.kMax) => ?_, fun i => ?_⟩
  · show readWord (clearRange s.mem (outAddr 0) (outEnd s.params)) (xfAddr k 0) &&& ~~~3#32 = 0
    rw [readWord_clearRange_below _ _ _ _ (by unfold xfAddr outAddr; omega)]
    exact hctl k hk
  · show readByte (clearRange s.mem (outAddr 0) (outEnd s.params)) (outAddr i + 3) = 0
    rw [readByte_clearRange, hout i, ite_self]

/-! ### START's check reads the configuration and the transform table only -/

theorem xfWord_of_keepsConfig (h : KeepsConfig s t) {k w : Nat} (hk : k < 128) (hw : w < 16) :
    xfWord t k w = xfWord s k w := by
  have hbyte (j : Nat) (hj : j < 4) : readByte t.mem (xfAddr k w + j) = readByte s.mem (xfAddr k w + j) :=
    h.2 _ (by unfold xfAddr; omega)
  rw [xfWord, xfWord, readWord, readWord, hbyte 1 (by decide), hbyte 2 (by decide), hbyte 3 (by decide)]
  exact congrArg _ (hbyte 0 (by decide))

theorem entryRule_of_keepsConfig (h : KeepsConfig s t) {k : Nat} (hk : k < 128) : EntryRule t k ↔ EntryRule s k := by
  have hword {w : Nat} (hw : w < 16) : xfWord t k w = xfWord s k w := xfWord_of_keepsConfig h hk hw
  simp [EntryRule, xfFirst, xfLast, hword, ledN_congr h.1]

theorem ledCountValid_of_keepsConfig (hparams : t.params = s.params) (h : KeepsConfig s t) :
    ledCountValid t = ledCountValid s := by
  rw [ledCountValid, ledCountValid, ledN_congr h.1, hparams]

theorem configValid_of_keepsConfig (hparams : t.params = s.params) (h : KeepsConfig s t) :
    configValid t = true ↔ configValid s = true := by
  have hrule (k : Nat) (hk : k < xformK s) : EntryRule t k ↔ EntryRule s k :=
    entryRule_of_keepsConfig h (hk.trans s.cfg.xformCount.isLt)
  rw [configValid_iff, configValid_iff, ledCountValid_of_keepsConfig hparams h, xformK_congr h.1, hparams,
    forall₂_congr hrule]

/-! ### The sequencer -/

theorem callWrite_invFields {bytes : List Byte} {whole : Bool} (h : callWrite bytes s = .returned whole t) :
    invFields t = invFields s := by
  obtain ⟨_, _, _, -, -, rfl⟩ := callWrite_returned h
  rfl

theorem sendHeader_invFields (h : sendHeader s = .sent t ∨ sendHeader s = .dropped t) :
    invFields t = invFields s := by
  unfold sendHeader at h
  split at h
  · simp at h
  · simp at h
  all_goals
    next hcall =>
      obtain rfl : _ = t := by simpa using h
      exact (callWrite_invFields hcall :)

theorem sendPayload_invFields (h : sendPayload s = .sent t ∨ sendPayload s = .dropped t) :
    invFields t = invFields s := by
  unfold sendPayload at h
  split at h
  · simp at h
  · simp at h
  all_goals
    next hcall =>
      obtain rfl : _ = t := by simpa using h
      exact (callWrite_invFields hcall :)

/-- What a step of the sequencer does to the fields the invariant reads, beside what KeepsConfig says of it. -/
structure SeqFrame (s t : State) : Prop where
  params : t.params = s.params
  cmdWait : t.cmdWait = s.cmdWait
  mem : t.mem = s.mem ∨ (s.pos = .led ∧ ∃ c, t.mem = writeOut s.mem s.iter.led c)
  ledBound : t.pos = .led → t.iter.led < ledN s
  stopped : t.pos = .idle → t.stopPend = false

/-- A step to a place other than S6 and IDLE, with nothing else changed that the invariant reads. -/
theorem SeqFrame.elsewhere (hled : t.pos ≠ .led) (hidle : t.pos ≠ .idle) {u : State}
    (hu : invFields u = invFields s) (ht : invFields { t with pos := u.pos } = invFields u) : SeqFrame s t := by
  obtain ⟨hparams, -, -, hmem, -, -, hwait⟩ := by simpa [invFields] using ht.trans hu
  exact ⟨hparams, hwait, .inl hmem, fun hp => absurd hp hled, fun hp => absurd hp hidle⟩

theorem stepBoundary_seqFrame (h : stepBoundary s = .done t) : SeqFrame s t := by
  unfold stepBoundary at h
  split_ifs at h with hstop <;> cases h
  · exact ⟨rfl, rfl, .inl rfl, nofun, fun _ => rfl⟩
  · exact ⟨rfl, rfl, .inl rfl, nofun, fun _ => Bool.eq_false_iff.2 hstop⟩
  · exact .elsewhere nofun nofun rfl rfl

theorem stepGeometry_seqFrame (h : stepGeometry s = .done t) : SeqFrame s t := by
  unfold stepGeometry at h
  split at h
  · cases h
  next hcall =>
    obtain ⟨_, -, rfl⟩ := callGeometry_eq_some hcall
    cases h
    refine ⟨rfl, rfl, .inl rfl, fun hp => ?_, fun hp => ?_⟩ <;> dsimp only at hp
    · split_ifs at hp with hzero
      exact Nat.pos_of_ne_zero hzero
    · split_ifs at hp

theorem stepLed_seqFrame (hpos : s.pos = .led) (h : stepLed s = .done t) : SeqFrame s t := by
  unfold stepLed at h
  split at h
  · cases h
  next hcall =>
    obtain ⟨_, -, rfl⟩ := callAverage_eq_some hcall
    cases h
    refine ⟨rfl, rfl, .inr ⟨hpos, _, rfl⟩, fun hp => ?_, fun hp => ?_⟩ <;> dsimp only at hp
    · split_ifs at hp with hnext
      exact hnext
    · split_ifs at hp

theorem stepEmitHeader_seqFrame (h : stepEmitHeader s = .done t) : SeqFrame s t := by
  unfold stepEmitHeader at h
  split at h
  · cases h
  · cases h
  next hsent => cases h; exact .elsewhere nofun nofun (sendHeader_invFields (.inl hsent)) rfl
  next hdropped => cases h; exact .elsewhere nofun nofun (sendHeader_invFields (.inr hdropped)) rfl

theorem stepEmitPayload_seqFrame (h : stepEmitPayload s = .done t) : SeqFrame s t := by
  unfold stepEmitPayload at h
  split at h
  · cases h
  · cases h
  next hsent => cases h; exact .elsewhere nofun nofun (sendPayload_invFields (.inl hsent)) rfl
  next hdropped => cases h; exact .elsewhere nofun nofun (sendPayload_invFields (.inr hdropped)) rfl

/-- Place by place. Where `grind` closes the goal, the answered call is the only other thing the step unfolds to, and the
new place is neither S6 nor IDLE. -/
theorem seqProgress_seqFrame (h : seqProgress s = .done t) : SeqFrame s t := by
  cases hpos : s.pos <;> simp only [seqProgress, hpos, reduceCtorEq] at h
  case boundary => exact stepBoundary_seqFrame h
  case geometry => exact stepGeometry_seqFrame h
  case led => exact stepLed_seqFrame hpos h
  case emitHeader => exact stepEmitHeader_seqFrame h
  case emitPayload => exact stepEmitPayload_seqFrame h
  case tick => grind [stepTick, callNow_eq_some, SeqFrame]
  case capCheck => grind [stepCapCheck, callNow_eq_some, SeqFrame]
  case capture => grind [stepCapture, callCapture_eq_some, SeqFrame]
  case captured => grind [stepCaptured, callNow_eq_some, SeqFrame]
  case capFail => grind [stepCapFail, raise, SeqFrame]
  case backoffSleep => grind [stepBackoffSleep, callSleep_eq_some, SeqFrame]
  case reinit => grind [stepReinit, callReinit_eq_some, SeqFrame]
  case frame => grind [stepFrame, callFrame_eq_some, raise_params, raise_mem, raise_cmdWait, SeqFrame]
  case pace => grind [stepPace, callNow_eq_some, SeqFrame]
  case paceSleep => grind [stepPaceSleep, callSleep_eq_some, SeqFrame]
  case finish => grind [stepFinish, SeqFrame]

/-- A step of the sequencer: START's check holds on, the LED of S6 is in range, and its store lies in the buffer. -/
theorem seqProgress_inv (h : Inv s) (hwait : s.cmdWait = none) (hdone : seqProgress s = .done t) : Inv t := by
  have hkeeps := seqProgress_keepsConfig hdone
  have hframe := seqProgress_seqFrame hdone
  have hrun : s.pos ≠ .idle := fun hidle => by simp [seqProgress, hidle] at hdone
  have hvalid := h.running hrun
  have hmem : MemInv t := by
    obtain hmem | ⟨hled, c, hmem⟩ := hframe.mem
    · exact h.memInv.congr hframe.params hmem
    · have hi : s.iter.led < s.params.nMax :=
        (h.ledBound hled).trans_le (ledCountValid_iff.1 ((configValid_iff s).1 hvalid).1).2
      exact (memInv_writeOut h.params h.memInv hi c).congr hframe.params hmem
  exact ⟨hframe.params ▸ h.params, hmem.canonical, hmem.mapped, hmem.reserved,
    fun _ => (configValid_of_keepsConfig hframe.params hkeeps).2 hvalid,
    fun hled => ledN_congr hkeeps.1 ▸ hframe.ledBound hled, hframe.stopped,
    by simp [WaitOk, hframe.cmdWait, hwait]⟩

/-! ### Outcomes that keep the invariant and the parameters -/

/-- An outcome's state meets the invariant and has the parameters of `s`. -/
def KeepsInv (s : State) (o : Host.Outcome State Fault Refusal) : Prop :=
  ∀ t, o = .next t → Inv t ∧ t.params = s.params

theorem keepsInv_next (h : Inv t) (hparams : t.params = s.params) : KeepsInv s (.next t) := by
  rintro _ ⟨⟩
  exact ⟨h, hparams⟩

theorem keepsInv_same (h : Inv s) (hsame : invFields t = invFields s) : KeepsInv s (.next t) :=
  keepsInv_next (h.of_invFields hsame) (congrArg Prod.fst hsame)

/-- The commands that compute reach the result registers only. -/
theorem keepsInv_withRes (h : Inv s) (r : ResultRegs) : KeepsInv s (.next { s with res := r }) := keepsInv_same h rfl

theorem keepsInv_settle {waiting : State} {p : Progress} (h : Inv waiting) (hparams : waiting.params = s.params)
    (hdone : ∀ t, p = .done t → Inv t ∧ t.params = s.params) : KeepsInv s (settle waiting p) := by
  intro t hsettle
  obtain ⟨-, rfl⟩ | hp := settle_next hsettle
  · exact ⟨h, hparams⟩
  · exact hdone t hp

theorem keepsInv_of_same {u : State} {o : Host.Outcome State Fault Refusal} (hsame : invFields u = invFields s)
    (h : KeepsInv u o) : KeepsInv s o :=
  fun t ht => (h t ht).imp_right (·.trans (congrArg Prod.fst hsame))

section Guards
variable {run : Host.Outcome State Fault Refusal} (h : Inv s)
include h

/-- A guard that refuses by an event. -/
theorem keepsInv_guard {c : Prop} [Decidable c] (e : Event) (hrun : c → KeepsInv s run) :
    KeepsInv s (if c then run else .next (raise e s)) := by
  split
  next hc => exact hrun hc
  next => exact keepsInv_same h rfl

theorem keepsInv_whenIdle (hrun : s.pos = .idle → KeepsInv s run) : KeepsInv s (whenIdle s run) :=
  keepsInv_guard h .eCmdBusy hrun

theorem keepsInv_whenEntry {k : Nat} (hrun : KeepsInv s run) : KeepsInv s (whenEntry k s run) :=
  keepsInv_guard h .eIndex fun _ => hrun

theorem keepsInv_whenLedCount (hrun : ledCountValid s = true → KeepsInv s run) : KeepsInv s (whenLedCount s run) :=
  keepsInv_guard h .eConfig hrun

end Guards

/-! ### CMD writes that wait, and their rest -/

theorem Inv.withWait (h : Inv s) (w : Option CmdWait) (hwait : WaitOk { s with cmdWait := w }) :
    Inv { s with cmdWait := w } :=
  ⟨h.params, h.canonical, h.mapped, h.reserved, h.running, h.ledBound, h.stopped, hwait⟩

theorem startClockPart_keepsInv (h : Inv s) (hvalid : configValid s = true) (hdone : startClockPart s = .done t) :
    Inv t ∧ t.params = s.params := by
  unfold startClockPart at hdone
  split at hdone
  · cases hdone
  next hcall =>
    obtain ⟨_, -, rfl⟩ := callNow_eq_some hcall
    cases hdone
    exact ⟨⟨h.params, h.canonical, h.mapped, h.reserved, fun _ => hvalid, nofun, nofun, trivial⟩, rfl⟩

theorem emitPayloadPart_invFields (h : emitPayloadPart s = .done t) :
    invFields t = invFields { s with cmdWait := none } := by
  unfold emitPayloadPart at h
  split at h
  · cases h
  · cases h
  next hsent => cases h; exact invFields_withWait (sendPayload_invFields (.inl hsent)) none
  next hdropped => cases h; exact invFields_withWait (sendPayload_invFields (.inr hdropped)) none

/-- EMIT comes to its end, or to its payload write. -/
theorem emitWholeFrame_invFields (h : emitWholeFrame s = .done t) :
    invFields t = invFields { s with cmdWait := none } ∨
      invFields t = invFields { s with cmdWait := some .emitPayload } := by
  unfold emitWholeFrame at h
  split at h
  · cases h
  · cases h
  next hdropped => cases h; exact .inl (invFields_withWait (sendHeader_invFields (.inr hdropped)) none)
  next hsent =>
    have hheader := sendHeader_invFields (.inl hsent)
    split at h
    · cases h; exact .inr (invFields_withWait hheader (some .emitPayload))
    · exact .inl ((emitPayloadPart_invFields h).trans (invFields_withWait hheader none))

theorem emitPayloadPart_keepsInv (h : Inv s) (hdone : emitPayloadPart s = .done t) :
    Inv t ∧ t.params = s.params :=
  keepsInv_same (h.withWait none trivial) (emitPayloadPart_invFields hdone) t rfl

theorem emitWholeFrame_keepsInv (h : Inv s) (hidle : s.pos = .idle) (hcount : ledCountValid s = true)
    (hdone : emitWholeFrame s = .done t) : Inv t ∧ t.params = s.params := by
  obtain hsame | hsame := emitWholeFrame_invFields hdone
  · exact keepsInv_same (h.withWait none trivial) hsame t rfl
  · exact keepsInv_same (h.withWait (some .emitPayload) ⟨hidle, hcount⟩) hsame t rfl

theorem resumeCommand_keepsInv {w : CmdWait} (h : Inv s) (hwait : s.cmdWait = some w)
    (hdone : resumeCommand w s = .done t) : Inv t ∧ t.params = s.params := by
  have hok := h.waiting
  rw [WaitOk, hwait] at hok
  cases w with
  | startClock => exact startClockPart_keepsInv h hok.2 hdone
  | emitHeader => exact emitWholeFrame_keepsInv h hok.1 hok.2 hdone
  | emitPayload => exact emitPayloadPart_keepsInv h hdone

theorem ownStep_keepsInv (h : Inv s) : KeepsInv s (ownStep s) := by
  refine keepsInv_settle h rfl fun t hdone => ?_
  unfold ownProgress at hdone
  split at hdone
  next w hwait => exact resumeCommand_keepsInv h hwait hdone
  next hwait => exact ⟨seqProgress_inv h hwait hdone, (seqProgress_seqFrame hdone).params⟩

/-! ### Commands -/

/-- START clears the output buffer and no other byte. -/
theorem readByte_clearForRun (s : State) (a : Nat) :
    readByte (clearForRun s).mem a =
      if 0x40000 ≤ a ∧ a < 0x40000 + 4 * s.params.nMax then 0 else readByte s.mem a :=
  readByte_clearRange ..

theorem readByte_clearForRun_inside {a : Nat} (hlow : 0x40000 ≤ a) (hhigh : a < 0x40000 + 4 * s.params.nMax) :
    readByte (clearForRun s).mem a = 0 := by
  rw [readByte_clearForRun, if_pos ⟨hlow, hhigh⟩]

theorem readByte_clearForRun_outside {a : Nat} (h : a < 0x40000 ∨ 0x40000 + 4 * s.params.nMax ≤ a) :
    readByte (clearForRun s).mem a = readByte s.mem a := by
  rw [readByte_clearForRun, if_neg (by omega)]

theorem clearForRun_keepsConfig (s : State) : KeepsConfig s (clearForRun s) :=
  ⟨rfl, fun _ ha => readByte_clearForRun_outside (.inl ha)⟩

theorem configValid_clearForRun (s : State) : configValid (clearForRun s) = true ↔ configValid s = true :=
  configValid_of_keepsConfig rfl (clearForRun_keepsConfig s)

/-- In IDLE, with no CMD write waiting, the invariant is what it says of the memory. -/
theorem inv_of_idle (hparams : s.params.valid) (hmem : MemInv s) (hidle : s.pos = .idle) (hstop : s.stopPend = false)
    (hfree : s.cmdWait = none) : Inv s :=
  ⟨hparams, hmem.canonical, hmem.mapped, hmem.reserved, fun h => absurd hidle h, fun h => by simp [hidle] at h,
    fun _ => hstop, by simp [WaitOk, hfree]⟩

theorem execStart_keepsInv (h : Inv s) (hfree : s.cmdWait = none) : KeepsInv s (execStart s) := by
  refine keepsInv_whenIdle h fun hidle => keepsInv_guard h .eConfig fun hvalid => ?_
  have hmem : MemInv (clearForRun s) := (memInv_clearOut h.params h.memInv).congr rfl rfl
  have hclear : Inv (clearForRun s) := inv_of_idle h.params hmem hidle rfl hfree
  have hvalid' := (configValid_clearForRun s).2 hvalid
  exact keepsInv_settle (hclear.withWait (some .startClock) ⟨hidle, hvalid'⟩) rfl
    fun _ => startClockPart_keepsInv hclear hvalid'

theorem execEmit_keepsInv (h : Inv s) : KeepsInv s (execEmit s) :=
  keepsInv_whenIdle h fun hidle => keepsInv_whenLedCount h fun hcount =>
    keepsInv_settle (h.withWait (some .emitHeader) ⟨hidle, hcount⟩) rfl fun _ => emitWholeFrame_keepsInv h hidle hcount

theorem execStop_keepsInv (h : Inv s) : KeepsInv s (execStop s) := by
  unfold execStop
  split
  next => exact keepsInv_same h rfl
  next hrun =>
    exact keepsInv_next ⟨h.params, h.canonical, h.mapped, h.reserved, h.running, h.ledBound,
      fun hidle => absurd hidle hrun, h.waiting⟩ rfl

theorem execHsv2rgb_keepsInv (h : Inv s) : KeepsInv s (execHsv2rgb s) := by
  refine keepsInv_whenIdle h fun _ => ?_
  split <;> exact keepsInv_same h rfl

/-- START, STOP and EMIT reach what the invariant reads; the others set result registers behind their guards. -/
theorem exec_keepsInv (h : Inv s) (hfree : s.cmdWait = none) (i : Instr) : KeepsInv s (exec i s) := by
  cases i with
  | nop idx => exact keepsInv_same h rfl
  | rgb2hsv idx => exact keepsInv_whenIdle h fun _ => keepsInv_withRes h _
  | hsv2rgb idx => exact execHsv2rgb_keepsInv h
  | chan k => exact keepsInv_whenIdle h fun _ => keepsInv_whenEntry h (keepsInv_withRes h _)
  | gain k => exact keepsInv_whenIdle h fun _ => keepsInv_whenEntry h (keepsInv_withRes h _)
  | pipe i => exact keepsInv_whenIdle h fun _ => keepsInv_withRes h _
  | smooth idx => exact keepsInv_whenIdle h fun _ => keepsInv_withRes h _
  | factor idx => exact keepsInv_whenIdle h fun _ => keepsInv_withRes h _
  | hdr idx => exact keepsInv_whenIdle h fun _ => keepsInv_whenLedCount h fun _ => keepsInv_withRes h _
  | emit idx => exact execEmit_keepsInv h
  | start idx => exact execStart_keepsInv h hfree
  | stop idx => exact execStop_keepsInv h

/-! ### Actions of the outside world -/

theorem issueCommand_keepsInv (h : Inv s) (hfree : s.cmdWait = none) (w : Word) : KeepsInv s (issueCommand w s) := by
  unfold issueCommand
  split
  next i _ => exact exec_keepsInv h hfree i
  next => exact keepsInv_same h rfl

/-- An RW-idle write only has to keep the invariant in IDLE. -/
theorem whenWritable_keepsInv {written : State} (h : Inv s) (hwritten : s.pos = .idle → KeepsInv s (.next written)) :
    KeepsInv s (.next (whenWritable s written)) := by
  unfold whenWritable
  split
  next hidle => exact hwritten hidle
  next => exact keepsInv_same h rfl

theorem setReg_keepsInv (h : Inv s) (hfree : s.cmdWait = none) (hidle : s.pos = .idle) (r : Reg) (v : Word) :
    KeepsInv s (.next (setReg r v s)) := by
  rw [setReg_frame]
  exact keepsInv_next (inv_of_idle h.params (h.memInv.congr rfl rfl) hidle (h.stopped hidle) hfree) rfl

theorem writeReg_keepsInv (h : Inv s) (hfree : s.cmdWait = none) (r : Reg) (v : Word) :
    KeepsInv s (writeReg r v s) := by
  cases hclass : regClass r <;> simp only [writeReg, hclass]
  case ro => exact keepsInv_same h rfl
  case rwAny => rw [setReg_frame_of_rwAny hclass]; exact keepsInv_same h rfl
  case rwIdle => exact whenWritable_keepsInv h fun hidle => setReg_keepsInv h hfree hidle r v
  case wo => exact issueCommand_keepsInv h hfree v
  case w1c => exact keepsInv_same h rfl

/-- A table word is selected only below K_MAX. -/
theorem bounds_of_accessTarget_xf {a : BitVec 20} {width k w : Nat} (h : accessTarget s a width = .xf k w) :
    k < s.params.kMax ∧ w < 16 := by
  unfold accessTarget targetOf at h
  split_ifs at h with hok hlow hxf hbuf
  · split at h <;> cases h
  · cases h
    unfold xfEnd xfAddr at hxf
    omega

theorem hostWrite_keepsInv (h : Inv s) (hfree : s.cmdWait = none) (a : BitVec 20) (width : Nat) (v : Word) :
    KeepsInv s (hostWrite a width v s) := by
  cases htarget : accessTarget s a width <;> simp only [hostWrite, htarget]
  case reg r => exact writeReg_keepsInv h hfree r v
  case xf k w =>
    obtain ⟨hk, hw⟩ := bounds_of_accessTarget_xf htarget
    have hmem := memInv_writeXf h.params h.memInv hk hw v
    exact whenWritable_keepsInv h fun hidle =>
      keepsInv_next (inv_of_idle h.params hmem hidle (h.stopped hidle) hfree) rfl
  case outbuf i => exact keepsInv_same h rfl
  case unmapped => exact keepsInv_same h rfl

/-- The memory after reset is empty. -/
theorem applyReset_inv (hparams : s.params.valid) (n : Nat) (a : Answers) : Inv (applyReset n a s) :=
  have hctl (k : Nat) : xfWord (applyReset n a s) k 0 &&& ~~~3#32 = 0 := by
    simp [xfWord, readWord, readByte_nil, State.reset]
  inv_of_idle hparams ⟨wf_nil, nofun, fun k _ => hctl k, fun _ => rfl⟩ rfl rfl rfl

theorem perform_keepsInv (h : Inv s) {act : HostAction} (hopen : requestOpen s act = true) :
    KeepsInv s (perform act s) := by
  cases act with
  | read a width => exact keepsInv_same h (by rw [hostRead_frame]; rfl)
  | write a width v =>
    have hfree : s.cmdWait = none := (requestOpen_eq_true_iff.1 hopen).resolve_right nofun
    exact hostWrite_keepsInv h hfree a width v
  | reset accepted answers => exact keepsInv_next (applyReset_inv h.params accepted answers) rfl
  | answer more => exact keepsInv_same h rfl

theorem step_keepsInv (h : Inv s) : KeepsInv s (step s) := by
  have hsame : invFields (replenish s) = invFields s := by simp [invFields]
  have hlisted : Inv (replenish s) := h.of_invFields hsame
  obtain ⟨hstep, -⟩ | ⟨r, rest, -, hopen, ⟨-, -, hstep⟩ | ⟨-, hstep⟩⟩ := step_cases s <;> rw [hstep]
  · exact keepsInv_of_same hsame (ownStep_keepsInv hlisted)
  · exact keepsInv_of_same hsame (ownStep_keepsInv (hlisted.of_invFields rfl))
  · rw [← requestOpen_replenish] at hopen
    have hrest : Inv { replenish s with pending := rest } := hlisted.of_invFields rfl
    exact keepsInv_of_same hsame (perform_keepsInv hrest hopen)

/-- Settles O55: a step is an own step of the block or an action of the outside world, from a state that differs in its
requests alone. -/
theorem everyStepKeepsTheInvariant : Obligations.EveryStepKeepsTheInvariant := fun _ t h => step_keepsInv h t

end Invariant

end Sys2Proof.Machine

/-! ## NOP, STOP and START, and the steps of the iteration (46_control.md)

Each command and each step has one equation per way its call can go; a step whose call has no answer waits, and the
block's own step then changes nothing. -/
namespace Sys2Proof.Machine

section Control
open Sys2Proof.Statements
variable {s : State}

/-! ### A command at the head of the queue, NOP and STOP (R240, R242, R243) -/

/-- Settles O5: the request takes effect at once, and CMD issues the word. -/
theorem stepRunsDecodedCommand : Obligations.StepRunsDecodedCommand := by
  intro s i w rest hdecode hwait hpending
  have hlisted : replenish s = s := replenish_of_pending hpending
  have hrequest := step_of_request (hlisted ▸ hpending) (requestOpen_eq_true_iff.2 (.inl hwait)) (.inl rfl)
  calc step s = hostWrite cmdAddr 4 w { s with pending := rest } := by rw [hrequest, hlisted]; rfl
    _ = exec i { s with pending := rest } := by rw [hostWrite_cmd, issueCommand_of_legal hdecode]

/-- The mask of OP and RSV keeps each of the two fields. -/
theorem fields_of_masked_zero {w : Word} (h : w &&& 0xFF0000FF#32 = 0#32) : rsvField w = 0 ∧ opField w = 0 := by
  have hfield (i : Nat) (hi : (0xFF0000FF#32).extractLsb' i 8 = BitVec.allOnes 8) : w.extractLsb' i 8 = 0#8 := by
    have hmasked := congrArg (BitVec.extractLsb' i 8) h
    rwa [BitVec.extractLsb'_and, hi, BitVec.and_allOnes, BitVec.extractLsb'_zero] at hmasked
  rw [rsvField, opField, hfield 24 (by decide), hfield 0 (by decide)]
  exact ⟨rfl, rfl⟩

theorem decode_of_masked_zero {w : Word} (h : w &&& 0xFF0000FF#32 = 0#32) : decode w = .ok (.nop (idxField w)) := by
  obtain ⟨hrsv, hop⟩ := fields_of_masked_zero h
  exact (decode_eq_ok_iff_fields w _).2 ⟨hrsv, hop, rfl⟩

/-- Settles O9: a masked word of 0 is a NOP, and STOP has one branch per side of IDLE. -/
theorem nopAndStopInEveryState : Obligations.NopAndStopInEveryState := by
  refine fun idx s => ⟨rfl, fun w hw => ?_, fun hidle => if_pos hidle, fun hrun => if_neg hrun⟩
  exact (hostWrite_cmd s w).trans (issueCommand_of_legal (decode_of_masked_zero hw) s)

/-! ### START (R241) -/

theorem exec_start_valid (hidle : s.pos = .idle) (hvalid : configValid s = true) (idx : Nat) :
    exec (.start idx) s = settle { clearForRun s with cmdWait := some .startClock } (startClockPart (clearForRun s)) :=
  (whenIdle_idle hidle _).trans (if_pos hvalid)

/-- Settles O23: past its guards START clears and takes the reading. -/
theorem startBeginsRun : Obligations.StartBeginsRun := by
  intro idx s t ts hidle hwait hvalid htimes
  have hclock := startClockPart_answered (s := clearForRun s) htimes
  refine ⟨_, (exec_start_valid hidle hvalid idx).trans (congrArg (settle _) hclock), ?_,
    fun a => readByte_clearForRun_inside, fun a => readByte_clearForRun_outside⟩
  simp [afterCall, clearForRun, hwait]

/-! ### CMD writes without an answer (R240, R257) -/

theorem startClockPart_unanswered (h : s.answers.times = []) : startClockPart s = .waiting := by
  rw [startClockPart, callNow, h]

theorem emitWholeFrame_unanswered (h : s.answers.writes = []) : emitWholeFrame s = .waiting := by
  rw [emitWholeFrame, sendHeader, callWrite, h]

/-- Where its call has no answer the block's own step changes nothing. -/
theorem ownStep_of_waiting (h : ownProgress s = .waiting) : ownStep s = .next s := by
  rw [ownStep, h, settle]

theorem ownStep_of_resumeCommand_waiting (w : CmdWait) (hwait : s.cmdWait = some w)
    (h : resumeCommand w s = .waiting) : ownStep s = .next s := by
  apply ownStep_of_waiting
  rwa [ownProgress, hwait]

theorem exec_emit_accepted (hidle : s.pos = .idle) (hcount : ledCountValid s = true) (idx : Nat) :
    exec (.emit idx) s = settle { s with cmdWait := some .emitHeader } (emitWholeFrame s) :=
  (whenIdle_idle hidle _).trans (whenLedCount_ok hcount _)

/-- Settles O24: each command stops at the call that has no answer, and its resumption has none either. -/
theorem unansweredCommandWaits : Obligations.UnansweredCommandWaits := by
  refine fun idx s hidle => ⟨fun hvalid htimes => ?_, fun hpos hmax => ⟨fun hnone => ?_, fun hheader => ?_⟩⟩
  · have hclock : startClockPart (clearForRun s) = .waiting := startClockPart_unanswered htimes
    refine ⟨{ clearForRun s with cmdWait := some .startClock }, ?_, rfl,
      fun a => readByte_clearForRun_inside, fun a => readByte_clearForRun_outside, ?_⟩
    · rw [exec_start_valid hidle hvalid, hclock, settle]
    · apply ownStep_of_resumeCommand_waiting .startClock rfl
      exact startClockPart_unanswered htimes
  all_goals
    have hcount : ledCountValid s = true := ledCountValid_iff.2 ⟨hpos, hmax⟩
    have haccepted := exec_emit_accepted hidle hcount idx
  · rw [haccepted, emitWholeFrame_unanswered hnone]
    refine ⟨rfl, ownStep_of_resumeCommand_waiting .emitHeader rfl ?_⟩
    exact emitWholeFrame_unanswered hnone
  · rw [haccepted, emitWholeFrame_header_only hheader]
    refine ⟨rfl, ownStep_of_resumeCommand_waiting .emitPayload rfl ?_⟩
    rw [resumeCommand, emitPayloadPart_unanswered]
    rfl

/-! ### Where the sequencer waits (R250, R257) -/

theorem ownEnabled_iff : ownEnabled s = true ↔ ownProgress s ≠ .waiting := by
  unfold ownEnabled
  cases ownProgress s <;> simp

theorem sendHeader_eq_waiting_iff : sendHeader s = .waiting ↔ s.answers.writes = [] := by
  obtain ⟨h, hnone⟩ | ⟨h, k, ws, hws, -⟩ | ⟨k, a, ws, hws, ⟨-, -, h⟩ | h⟩ := sendHeader_cases s <;> simp [*]

theorem sendPayload_eq_waiting_iff : sendPayload s = .waiting ↔ s.answers.writes = [] := by
  obtain ⟨h, hnone⟩ | ⟨h, k, ws, hws, -⟩ | ⟨k, a, ws, hws, ⟨-, -, h⟩ | h⟩ := sendPayload_cases s <;> simp [*]

/-- Place by place: the step waits where its call does, for want of an answer. -/
theorem seqProgress_ne_waiting_iff : seqProgress s ≠ .waiting ↔ Answered s := by
  cases hpos : s.pos <;> simp only [seqProgress, Answered, hpos]
  case idle => simp
  case boundary => unfold stepBoundary; split_ifs <;> simp
  case tick => cases h : s.answers.times <;> simp [stepTick, callNow, h]
  case capCheck =>
    cases hvalid : s.gov.capValid
    · simp [stepCapCheck, hvalid]
    · cases h : s.answers.times <;> simp [stepCapCheck, callNow, hvalid, h]
  case capture => rcases h : s.answers.captures with _ | ⟨_ | _, _⟩ <;> simp [stepCapture, callCapture, h]
  case captured => cases h : s.answers.times <;> simp [stepCaptured, callNow, h]
  case capFail => simp [stepCapFail]
  case backoffSleep => cases h : s.answers.sleeps <;> simp [stepBackoffSleep, callSleep, h]
  case reinit => cases h : s.answers.reinits <;> simp [stepReinit, callReinit, h]
  case frame => rcases h : s.answers.frames with _ | ⟨_ | _, _⟩ <;> simp [stepFrame, callFrame, h]
  case geometry => cases h : s.answers.geometries <;> simp [stepGeometry, callGeometry, h]
  case led => cases h : s.answers.averages <;> simp [stepLed, callAverage, h]
  case emitHeader =>
    refine not_congr ?_
    rw [← sendHeader_eq_waiting_iff]
    unfold stepEmitHeader
    split <;> simp [*]
  case emitPayload =>
    refine not_congr ?_
    rw [← sendPayload_eq_waiting_iff]
    unfold stepEmitPayload
    split <;> simp [*]
  case pace => cases h : s.answers.times <;> simp [stepPace, callNow, h]
  case paceSleep => cases h : s.answers.sleeps <;> simp [stepPaceSleep, callSleep, h]
  case finish => simp [stepFinish]

/-- Settles O38: with no CMD write waiting, the own step is the sequencer's, enabled where it does not wait. -/
theorem sequencerWaitsForAnswers : Obligations.SequencerWaitsForAnswers := by
  intro s hwait
  have hseq : ownProgress s = seqProgress s := by rw [ownProgress, hwait]
  refine ⟨by rw [ownEnabled_iff, hseq, seqProgress_ne_waiting_iff], fun hdisabled => ownStep_of_waiting ?_⟩
  by_contra hprogress
  rw [ownEnabled_iff.2 hprogress] at hdisabled
  cases hdisabled

/-! ### The iteration boundary (R251) -/

/-- Settles O39: the three branches of S0. -/
theorem boundaryStep : Obligations.BoundaryStep := by
  intro s hwait hpos
  refine ⟨fun hstop => ?_, fun hstop hlimit hcount => ?_, fun hstop hbelow => ?_⟩
  all_goals
    apply ownStep_of_seqProgress hwait
    rw [seqProgress, hpos]
    dsimp only
    unfold stepBoundary
  · rw [if_pos hstop]
  · rw [if_neg (Bool.eq_false_iff.1 hstop), if_pos ⟨hlimit, hcount⟩]
  · have hno : ¬ (s.cfg.iterLimit ≠ 0 ∧ s.cnt.iterCount = s.cfg.iterLimit) := by tauto
    rw [if_neg (Bool.eq_false_iff.1 hstop), if_neg hno]

/-! ### CaptureFailed (R252) -/

theorem callReinit_answered {n : Nat} (h : s.answers.reinits = n + 1) :
    callReinit s = some (afterCall .captureReinit { s.answers with reinits := n } s) := by
  rw [callReinit, h]; rfl

theorem stepBackoffSleep_answered {n : Nat} (h : s.answers.sleeps = n + 1) :
    stepBackoffSleep s =
      .done { afterCall (.sleep (backoffOf s)) { s.answers with sleeps := n } s with pos := .reinit } := by
  rw [stepBackoffSleep, callSleep_answered h]

theorem stepReinit_answered {n : Nat} (h : s.answers.reinits = n + 1) :
    stepReinit s = .done { afterCall .captureReinit { s.answers with reinits := n } s with pos := .finish } := by
  rw [stepReinit, callReinit_answered h]

/-- Settles O42: the three places of S4, the two calls answered. -/
theorem captureFailedSteps : Obligations.CaptureFailedSteps := by
  refine fun s hwait => ⟨fun hpos => ?_, fun n hpos hsleeps => ?_, fun n hpos hreinits => ?_⟩
  all_goals
    apply ownStep_of_seqProgress hwait
    rw [seqProgress, hpos]
  · rfl
  · exact stepBackoffSleep_answered hsleeps
  · exact stepReinit_answered hreinits

/-! ### The stored frame and its geometry (R250, R253) -/

theorem callFrame_answered {f : Option Nat} {fs : List (Option Nat)} (h : s.answers.frames = f :: fs) :
    callFrame s = some (f, afterCall .getStoredFrame { s.answers with frames := fs } s) := by
  rw [callFrame, h]; rfl

theorem callGeometry_answered {g : Word × Word} {gs : List (Word × Word)} (h : s.answers.geometries = g :: gs) :
    callGeometry s = some (g, afterCall .geometry { s.answers with geometries := gs } s) := by
  rw [callGeometry, h]; rfl

theorem stepFrame_none {fs : List (Option Nat)} (h : s.answers.frames = none :: fs) :
    stepFrame s = .done { afterCall .getStoredFrame { s.answers with frames := fs } (withStatusBit 11 s) with
      cnt := { s.cnt with noFrameCount := s.cnt.noFrameCount + 1 }, pos := .pace } := by
  rw [stepFrame, callFrame_answered h]; rfl

theorem stepFrame_some {tok : Nat} {fs : List (Option Nat)} (h : s.answers.frames = some tok :: fs) :
    stepFrame s = .done { afterCall .getStoredFrame { s.answers with frames := fs } s with
      iter := { s.iter with frame := tok }, pos := .geometry } := by
  rw [stepFrame, callFrame_answered h]; rfl

theorem stepGeometry_answered {w h : Word} {gs : List (Word × Word)} (hanswer : s.answers.geometries = (w, h) :: gs) :
    stepGeometry s = .done { afterCall .geometry { s.answers with geometries := gs } s with
      iter := { s.iter with srcW := w, srcH := h, led := 0 }
      pos := if ledN s = 0 then .emitHeader else .led } := by
  rw [stepGeometry, callGeometry_answered hanswer]; rfl

/-- Settles O43: the two answers of getStoredFrame(), and the answered geometry(). -/
theorem storedFrameSteps : Obligations.StoredFrameSteps := by
  refine fun s hwait => ⟨fun fs hpos hframes => ?_, fun tok fs hpos hframes => ?_,
    fun w h gs hpos hgeometries => ?_⟩
  all_goals
    apply ownStep_of_seqProgress hwait
    rw [seqProgress, hpos]
  · exact stepFrame_none hframes
  · exact stepFrame_some hframes
  · exact stepGeometry_answered hgeometries

/-! ### One LED (R254) -/

theorem callAverage_answered {avg : Rgb8} {cs : List Rgb8} (h : s.answers.averages = avg :: cs) :
    callAverage s = some (avg, afterCall (.averageColor s.iter.frame s.iter.led s.iter.srcW s.iter.srcH
      s.cfg.targetW s.cfg.targetH) { s.answers with averages := cs } s) := by
  rw [callAverage, h]; rfl

/-- The pipeline and the smoothing read nothing that the averaging call changes. -/
theorem stepLed_answered {avg : Rgb8} {cs : List Rgb8} (h : s.answers.averages = avg :: cs) :
    stepLed s = .done { afterCall (.averageColor s.iter.frame s.iter.led s.iter.srcW s.iter.srcH
        s.cfg.targetW s.cfg.targetH) { s.answers with averages := cs } s with
      mem := writeOut s.mem s.iter.led
        (smoothRgb s.cfg.policy (readOut s s.iter.led) (pipeline s s.iter.led avg) s.iter.factor)
      iter := { s.iter with led := s.iter.led + 1 }
      pos := if s.iter.led + 1 < ledN s then .led else .emitHeader } := by
  rw [stepLed, callAverage_answered h]; rfl

theorem unpackRgb_packRgb (c : Rgb8) : unpackRgb (packRgb c) = c := by
  have hr : (packRgb c).extractLsb' 0 8 = c.r := BitVec.extractLsb'_append_eq_right
  have hg : (packRgb c).extractLsb' 8 8 = c.g :=
    (extractLsb'_append_byte _ _ 0).trans BitVec.extractLsb'_append_eq_right
  have hb : (packRgb c).extractLsb' 16 8 = c.b :=
    (extractLsb'_append_byte _ _ 8).trans
      ((extractLsb'_append_byte _ _ 0).trans BitVec.extractLsb'_append_eq_right)
  rw [unpackRgb, hr, hg, hb]

/-- OUTBUF[i] reads as the colour written. -/
theorem readOut_writeOut_same {m : Memory} (i : Nat) (c : Rgb8) (h : s.mem = writeOut m i c) : readOut s i = c := by
  rw [readOut, h, writeOut, readWord_writeWord_same, unpackRgb_packRgb]

/-- Settles O44: the answered call, and the laws of the store to OUTBUF[i]. -/
theorem ledStep : Obligations.LedStep := by
  intro s avg cs hwait hpos haverages i
  have hseq : seqProgress s = stepLed s := by rw [seqProgress, hpos]
  refine ⟨_, ownStep_of_seqProgress hwait (hseq.trans (stepLed_answered haverages)), readOut_writeOut_same i _ rfl,
    fun a ha => readByte_writeWord_of_outside _ ha, rfl⟩

end Control

end Sys2Proof.Machine

/-! ## Refusals that raise their event and nothing else, and the invariant at reset -/
namespace Sys2Proof.Machine

section Refusals
open Sys2Proof.Statements
variable {s : State}

/-! ### Refused configurations (R304) -/

theorem exec_hdr_refused (hidle : s.pos = .idle) (hcount : ledCountValid s = false) (idx : Nat) :
    exec (.hdr idx) s = .next (raise .eConfig s) :=
  (whenIdle_idle hidle _).trans (whenLedCount_out hcount _)

theorem exec_emit_refused (hidle : s.pos = .idle) (hcount : ledCountValid s = false) (idx : Nat) :
    exec (.emit idx) s = .next (raise .eConfig s) :=
  (whenIdle_idle hidle _).trans (whenLedCount_out hcount _)

theorem exec_start_refused (hidle : s.pos = .idle) (hinvalid : configValid s = false) (idx : Nat) :
    exec (.start idx) s = .next (raise .eConfig s) :=
  (whenIdle_idle hidle _).trans (if_neg (Bool.eq_false_iff.1 hinvalid))

theorem ledCountValid_eq_false_iff : ledCountValid s = false ↔ ledN s = 0 ∨ s.params.nMax < ledN s := by
  rw [← Bool.not_eq_true, ledCountValid_iff]
  omega

/-- N is part of what START checks. -/
theorem configValid_eq_false_of_ledCount (hcount : ledCountValid s = false) : configValid s = false := by
  rw [configValid, hcount, Bool.false_and, Bool.false_and]

/-- Settles O8: N out of range fails all three checks, and each failed check is E_CONFIG alone. -/
theorem refusedConfigurationsRaiseOnlyTheirEvent : Obligations.RefusedConfigurationsRaiseOnlyTheirEvent := by
  refine fun idx s hidle => ⟨fun hcount => ?_, fun hinvalid => exec_start_refused hidle hinvalid idx⟩
  replace hcount : ledCountValid s = false := ledCountValid_eq_false_iff.2 hcount
  exact ⟨exec_hdr_refused hidle hcount idx, exec_emit_refused hidle hcount idx,
    exec_start_refused hidle (configValid_eq_false_of_ledCount hcount) idx⟩

/-! ### Busy and index refusals (R94, R307, R309) -/

/-- A command other than NOP and STOP runs in IDLE only. -/
theorem exec_busy {i : Instr} (hrun : s.pos ≠ .idle) (hnop : ∀ n, i ≠ .nop n) (hstop : ∀ n, i ≠ .stop n) :
    exec i s = .next (raise .eCmdBusy s) := by
  cases i
  case nop n => exact absurd rfl (hnop n)
  case stop n => exact absurd rfl (hstop n)
  all_goals exact whenIdle_busy hrun _

theorem exec_chan_out {k : Nat} (hidle : s.pos = .idle) (hk : s.params.kMax ≤ k) :
    exec (.chan k) s = .next (raise .eIndex s) :=
  (whenIdle_idle hidle _).trans (whenEntry_out hk _)

theorem exec_gain_out {k : Nat} (hidle : s.pos = .idle) (hk : s.params.kMax ≤ k) :
    exec (.gain k) s = .next (raise .eIndex s) :=
  (whenIdle_idle hidle _).trans (whenEntry_out hk _)

/-- Settles O7: the guard on IDLE comes before the one on the entry, and PIPE has the first guard only. -/
theorem acceptanceRefusals : Obligations.AcceptanceRefusals :=
  ⟨fun _ _ => exec_busy, fun _ _ hidle hk => ⟨exec_chan_out hidle hk, exec_gain_out hidle hk⟩,
    fun i _ hidle => ⟨_, exec_pipe_idle hidle i, rfl⟩⟩

/-! ### Configuration writes while running (R308) -/

theorem writeReg_rwIdle_running {r : Reg} (hr : regClass r = .rwIdle) (hrun : s.pos ≠ .idle) (v : Word) :
    writeReg r v s = .next (raise .eWrBusy s) := by
  rw [writeReg, hr, whenWritable_running hrun]

theorem hostWrite_xf_running {a : BitVec 20} {width k w : Nat} (h : accessTarget s a width = .xf k w)
    (hrun : s.pos ≠ .idle) (v : Word) : hostWrite a width v s = .next (raise .eWrBusy s) := by
  rw [hostWrite, h]
  exact congrArg _ (whenWritable_running hrun _)

/-- Settles O48: both kinds of write go through `whenWritable`. -/
theorem busyConfigWritesRaiseOnlyTheirEvent : Obligations.BusyConfigWritesRaiseOnlyTheirEvent := by
  refine fun v s hrun => ⟨fun r hr => ?_, fun k w hparams hk hw => ?_⟩
  · rw [hostWrite_regAddr]
    exact writeReg_rwIdle_running (regClass_of_mem_rwIdleRegs hr) hrun v
  · exact hostWrite_xf_running (accessTarget_xf hparams hk hw) hrun v

/-! ### Reset (R340) -/

/-- The reset state under any parameters is what a reset leaves in it. -/
theorem inv_reset {p : Params} (hp : p.valid) : Inv { State.reset with params := p } :=
  applyReset_inv (s := { State.reset with params := p }) hp 0 Answers.none

/-- Settles O54: the reference parameters are valid, so State.reset is one of them. -/
theorem invariantHoldsAtReset : Obligations.InvariantHoldsAtReset :=
  ⟨inv_reset (p := Params.reference) (by decide), fun _ => inv_reset⟩

end Refusals

end Sys2Proof.Machine

/-! ## What a step comes to: a next state with at most one new event, or the stop of an overreported write

A step, a command and an access are `Orderly`: each comes to a next state in which at most one sticky bit is newly
set, or it is refused as `transportOverreport` where a condition on the write answers holds. Only the two writes of
a frame can refuse, so the condition is carried from `sendHeader` and `sendPayload` up to `step`. -/
namespace Sys2Proof.Machine

section Orderly
open Sys2Proof.Statements
variable {s t u : State} {stop stop' : Prop}

/-! ### Newly set sticky bits -/

/-- At most one sticky bit of `t` is not set in `s`, the bit of an event. -/
def AtMostOneEvent (s t : State) : Prop :=
  ∃ e : Event, ∀ i, t.sticky.getLsbD i = true → s.sticky.getLsbD i = true ∨ i = eventCode e - 8

theorem atMostOneEvent_congr (h : u.sticky = s.sticky) (t : State) : AtMostOneEvent u t ↔ AtMostOneEvent s t := by
  rw [AtMostOneEvent, AtMostOneEvent, h]

/-- Any event will do where no bit is newly set. -/
theorem atMostOneEvent_of_imp (h : ∀ i, t.sticky.getLsbD i = true → s.sticky.getLsbD i = true) :
    AtMostOneEvent s t := ⟨.eCapture, fun i hi => .inl (h i hi)⟩

@[simp] theorem atMostOneEvent_of_eq (h : t.sticky = s.sticky) : AtMostOneEvent s t :=
  atMostOneEvent_of_imp fun _ hi => h ▸ hi

theorem atMostOneEvent_of_eventBit (e : Event) (h : t.sticky = s.sticky ||| eventBit e) : AtMostOneEvent s t := by
  refine ⟨e, fun i hi => ?_⟩
  rw [h, BitVec.getLsbD_or, Bool.or_eq_true, eventBit, BitVec.getLsbD_twoPow, Bool.and_eq_true,
    decide_eq_true_eq, decide_eq_true_eq] at hi
  exact hi.imp_right fun ⟨_, hbit⟩ => hbit.symm

theorem atMostOneEvent_raise (e : Event) (s : State) : AtMostOneEvent s (raise e s) :=
  atMostOneEvent_of_eventBit e rfl

theorem atMostOneEvent_stickyCleared (v : Word) (s : State) :
    AtMostOneEvent s { s with sticky := stickyCleared s.sticky v } :=
  atMostOneEvent_of_imp fun i hi => by simp_all [stickyCleared]

/-! ### Orderly progress and outcomes -/

/-- Progress with at most one new event, or refused for an overreported write, and then only where `stop` holds. -/
@[simp] def OrderlyProgress (s : State) (stop : Prop) : Progress → Prop
  | .waiting => True
  | .done t => AtMostOneEvent s t
  | .refused r => r = .transportOverreport ∧ stop

/-- The same of an outcome; there are no faults. -/
def Orderly (s : State) (stop : Prop) : Host.Outcome State Fault Refusal → Prop
  | .next t => AtMostOneEvent s t
  | .fault _ => False
  | .refused r => r = .transportOverreport ∧ stop

theorem OrderlyProgress.mono {p : Progress} (h : OrderlyProgress s stop p) (hstop : stop → stop') :
    OrderlyProgress s stop' p := by
  cases p with
  | waiting => trivial
  | done t => exact h
  | refused r => exact h.imp_right hstop

theorem OrderlyProgress.of_sticky {p : Progress} (h : OrderlyProgress u stop p) (hsticky : u.sticky = s.sticky) :
    OrderlyProgress s stop p := by
  cases p with
  | waiting => trivial
  | done t => exact (atMostOneEvent_congr hsticky t).1 h
  | refused r => exact h

/-- Where an agent has to wait, no bit is set. -/
theorem OrderlyProgress.settle {p : Progress} {waiting : State} (h : OrderlyProgress s stop p)
    (hwaiting : waiting.sticky = s.sticky) : Orderly s stop (settle waiting p) := by
  cases p with
  | waiting => exact atMostOneEvent_of_eq hwaiting
  | done t => exact h
  | refused r => exact h

variable {o : Host.Outcome State Fault Refusal}

theorem Orderly.mono (h : Orderly s stop o) (hstop : stop → stop') : Orderly s stop' o := by
  cases o with
  | next t => exact h
  | fault f => exact h
  | refused r => exact h.imp_right hstop

theorem Orderly.of_sticky (h : Orderly u stop o) (hsticky : u.sticky = s.sticky) : Orderly s stop o := by
  cases o with
  | next t => exact (atMostOneEvent_congr hsticky t).1 h
  | fault f => exact h
  | refused r => exact h

theorem orderly_same (h : t.sticky = s.sticky) : Orderly s stop (.next t) := atMostOneEvent_of_eq h

theorem orderly_raise (e : Event) : Orderly s stop (.next (raise e s)) := atMostOneEvent_raise e s

/-! ### The two writes of a frame (R222, R333) -/

/-- The first of the answers reports more than the `len` bytes asked. -/
def Overreports (len : Nat) (answers : List WriteAnswer) : Prop := ∃ k ws, answers = .ok k :: ws ∧ len < k

/-- One of the two writes of a frame is overreported: the header's, or the payload's after a whole header. -/
def FrameOverreported (s : State) : Prop :=
  Overreports 6 s.answers.writes ∨
    ∃ ws, s.answers.writes = .ok 6 :: ws ∧ Overreports (3 * ledN s) ws

/-- The same of one of the two writes. -/
def OrderlySent (s : State) (stop : Prop) : Sent → Prop
  | .waiting => True
  | .refused r => r = .transportOverreport ∧ stop
  | .sent t => AtMostOneEvent s t
  | .dropped t => AtMostOneEvent s t

theorem sendHeader_orderly (s : State) : OrderlySent s (Overreports 6 s.answers.writes) (sendHeader s) := by
  obtain ⟨h, -⟩ | ⟨h, hover⟩ | ⟨_, _, _, -, ⟨-, -, h⟩ | h⟩ := sendHeader_cases s <;> rw [h]
  · trivial
  · exact ⟨rfl, hover⟩
  · exact atMostOneEvent_of_eq rfl
  · exact atMostOneEvent_of_eventBit .eTxHdr rfl

theorem sendPayload_orderly (s : State) :
    OrderlySent s (Overreports (3 * ledN s) s.answers.writes) (sendPayload s) := by
  obtain ⟨h, -⟩ | ⟨h, hover⟩ | ⟨_, _, _, -, ⟨-, -, h⟩ | h⟩ := sendPayload_cases s <;> rw [h]
  · trivial
  · exact ⟨rfl, hover⟩
  · exact atMostOneEvent_of_eq rfl
  · exact atMostOneEvent_of_eventBit .eTxPay rfl

theorem stepEmitHeader_orderly (s : State) :
    OrderlyProgress s (Overreports 6 s.answers.writes) (stepEmitHeader s) := by
  have h := sendHeader_orderly s
  unfold stepEmitHeader
  cases hsend : sendHeader s <;> rw [hsend] at h <;> exact h

theorem stepEmitPayload_orderly (s : State) :
    OrderlyProgress s (Overreports (3 * ledN s) s.answers.writes) (stepEmitPayload s) := by
  have h := sendPayload_orderly s
  unfold stepEmitPayload
  cases hsend : sendPayload s <;> rw [hsend] at h <;> exact h

theorem emitPayloadPart_orderly (s : State) :
    OrderlyProgress s (Overreports (3 * ledN s) s.answers.writes) (emitPayloadPart s) := by
  have h := sendPayload_orderly s
  unfold emitPayloadPart
  cases hsend : sendPayload s <;> rw [hsend] at h <;> exact h

theorem sendHeader_sent_frame (h : sendHeader s = .sent t) :
    t.sticky = s.sticky ∧ ledN t = ledN s ∧ s.answers.writes = .ok 6 :: t.answers.writes := by
  obtain ⟨h', -⟩ | ⟨h', -⟩ | ⟨_, _, ws, hws, ⟨rfl, -, h'⟩ | h'⟩ := sendHeader_cases s <;> cases h'.symm.trans h
  exact ⟨rfl, rfl, hws⟩

/-- A whole header raises nothing, so EMIT raises what its payload write raises. -/
theorem emitWholeFrame_orderly (s : State) : OrderlyProgress s (FrameOverreported s) (emitWholeFrame s) := by
  have hheader := sendHeader_orderly s
  unfold emitWholeFrame
  cases hsend : sendHeader s with
  | waiting => trivial
  | refused r => rw [hsend] at hheader; exact hheader.imp_right .inl
  | dropped t => rw [hsend] at hheader; exact hheader
  | sent t =>
    obtain ⟨hsticky, hcount, hwrites⟩ := sendHeader_sent_frame hsend
    have hpayload : OrderlyProgress s (FrameOverreported s) (emitPayloadPart t) :=
      ((emitPayloadPart_orderly t).of_sticky hsticky).mono fun hover => .inr ⟨_, hwrites, hcount ▸ hover⟩
    dsimp only
    split
    next => exact atMostOneEvent_of_eq hsticky
    next => exact hpayload

/-! ### Own steps -/

/-- Outside S7 a step of the sequencer waits, or it goes on and raises E_CAPTURE at S4, E_NO_FRAME at S5 or nothing. -/
theorem seqProgress_orderly_elsewhere (hhead : s.pos ≠ .emitHeader) (hpay : s.pos ≠ .emitPayload) :
    OrderlyProgress s stop (seqProgress s) := by
  cases hpos : s.pos <;> simp only [seqProgress, hpos]
  case emitHeader => exact absurd hpos hhead
  case emitPayload => exact absurd hpos hpay
  case idle => trivial
  case capFail => exact atMostOneEvent_of_eventBit .eCapture rfl
  case frame =>
    rcases h : s.answers.frames with _ | ⟨_ | _, _⟩ <;> simp only [stepFrame, callFrame, h]
    · trivial
    · exact atMostOneEvent_of_eventBit .eNoFrame rfl
    · exact atMostOneEvent_of_eq rfl
  case boundary => unfold stepBoundary; split_ifs <;> exact atMostOneEvent_of_eq rfl
  case finish => exact atMostOneEvent_of_eq rfl
  case tick => cases h : s.answers.times <;> simp [stepTick, callNow, h]
  case capCheck =>
    cases hvalid : s.gov.capValid
    · simp [stepCapCheck, hvalid]
    · cases h : s.answers.times <;> simp [stepCapCheck, callNow, hvalid, h]
  case capture => rcases h : s.answers.captures with _ | ⟨_ | _, _⟩ <;> simp [stepCapture, callCapture, h]
  case captured => cases h : s.answers.times <;> simp [stepCaptured, callNow, h]
  case backoffSleep => cases h : s.answers.sleeps <;> simp [stepBackoffSleep, callSleep, h]
  case reinit => cases h : s.answers.reinits <;> simp [stepReinit, callReinit, h]
  case geometry => cases h : s.answers.geometries <;> simp [stepGeometry, callGeometry, h]
  case led => cases h : s.answers.averages <;> simp [stepLed, callAverage, h]
  case pace => cases h : s.answers.times <;> simp [stepPace, callNow, h]
  case paceSleep => cases h : s.answers.sleeps <;> simp [stepPaceSleep, callSleep, h]

theorem startClockPart_orderly (s : State) : OrderlyProgress s stop (startClockPart s) := by
  cases h : s.answers.times <;> simp [startClockPart, callNow, h]

/-- Where the block's own step stops: in a frame's header or payload write, of the sequencer or of a waiting EMIT, or
in the payload write that follows a waiting EMIT's header write. -/
def OwnStepStops (s : State) : Prop :=
  (Overreports 6 s.answers.writes ∧ InHeaderWrite s) ∨
  (Overreports (3 * ledN s) s.answers.writes ∧ InPayloadWrite s) ∨
  (∃ ws, s.answers.writes = .ok 6 :: ws ∧ Overreports (3 * ledN s) ws) ∧ s.cmdWait = some .emitHeader

theorem seqProgress_orderly (hfree : s.cmdWait = none) : OrderlyProgress s (OwnStepStops s) (seqProgress s) := by
  by_cases hhead : s.pos = .emitHeader
  · rw [seqProgress, hhead]
    exact (stepEmitHeader_orderly s).mono fun hover => .inl ⟨hover, .inr ⟨hfree, hhead⟩⟩
  by_cases hpay : s.pos = .emitPayload
  · rw [seqProgress, hpay]
    exact (stepEmitPayload_orderly s).mono fun hover => .inr (.inl ⟨hover, .inr ⟨hfree, hpay⟩⟩)
  · exact seqProgress_orderly_elsewhere hhead hpay

theorem resumeCommand_orderly {w : CmdWait} (hwait : s.cmdWait = some w) :
    OrderlyProgress s (OwnStepStops s) (resumeCommand w s) := by
  cases w with
  | startClock => exact startClockPart_orderly s
  | emitHeader =>
    refine (emitWholeFrame_orderly s).mono fun hover => ?_
    obtain hheader | hpayload := hover
    · exact .inl ⟨hheader, .inl hwait⟩
    · exact .inr (.inr ⟨hpayload, hwait⟩)
  | emitPayload => exact (emitPayloadPart_orderly s).mono fun hover => .inr (.inl ⟨hover, .inl hwait⟩)

theorem ownStep_orderly (s : State) : Orderly s (OwnStepStops s) (ownStep s) := by
  refine OrderlyProgress.settle ?_ rfl
  unfold ownProgress
  split
  next hwait => exact resumeCommand_orderly hwait
  next hfree => exact seqProgress_orderly hfree

/-! ### Commands -/

/-- A guard that refuses by an event. -/
theorem orderly_guard {c : Prop} [Decidable c] (e : Event) (hrun : c → Orderly s stop o) :
    Orderly s stop (if c then o else .next (raise e s)) := by
  split
  next hc => exact hrun hc
  next => exact orderly_raise e

theorem orderly_whenIdle (hrun : s.pos = .idle → Orderly s stop o) : Orderly s stop (whenIdle s o) :=
  orderly_guard .eCmdBusy hrun

theorem orderly_whenEntry {k : Nat} (hrun : Orderly s stop o) : Orderly s stop (whenEntry k s o) :=
  orderly_guard .eIndex fun _ => hrun

theorem orderly_whenLedCount (hrun : ledCountValid s = true → Orderly s stop o) :
    Orderly s stop (whenLedCount s o) := orderly_guard .eConfig hrun

/-- Behind their guards commands set result registers, START begins to run, and EMIT sends its frame. -/
theorem exec_orderly (i : Instr) (s : State) :
    Orderly s ((∃ idx, i = .emit idx) ∧ s.pos = .idle ∧ ledCountValid s = true ∧ FrameOverreported s)
      (exec i s) := by
  cases i with
  | nop idx => exact orderly_same rfl
  | rgb2hsv idx => exact orderly_whenIdle fun _ => orderly_same rfl
  | hsv2rgb idx => exact orderly_whenIdle fun _ => by split <;> exact orderly_same rfl
  | chan k => exact orderly_whenIdle fun _ => orderly_whenEntry (orderly_same rfl)
  | gain k => exact orderly_whenIdle fun _ => orderly_whenEntry (orderly_same rfl)
  | pipe i => exact orderly_whenIdle fun _ => orderly_same rfl
  | smooth idx => exact orderly_whenIdle fun _ => orderly_same rfl
  | factor idx => exact orderly_whenIdle fun _ => orderly_same rfl
  | hdr idx => exact orderly_whenIdle fun _ => orderly_whenLedCount fun _ => orderly_same rfl
  | emit idx =>
    refine orderly_whenIdle fun hidle => orderly_whenLedCount fun hcount => ?_
    exact ((emitWholeFrame_orderly s).mono fun hover => ⟨⟨idx, rfl⟩, hidle, hcount, hover⟩).settle rfl
  | start idx =>
    refine orderly_whenIdle fun _ => orderly_guard .eConfig fun _ => ?_
    exact ((startClockPart_orderly (clearForRun s)).of_sticky rfl).settle rfl
  | stop idx =>
    show Orderly s _ (execStop s)
    unfold execStop
    split <;> exact orderly_same rfl

/-! ### Actions of the outside world -/

/-- A word that issues an EMIT, accepted, of which a write is overreported. -/
def IssueStops (w : Word) (s : State) : Prop :=
  (∃ idx, decode w = .ok (.emit idx)) ∧ s.pos = .idle ∧ ledCountValid s = true ∧ FrameOverreported s

theorem issueCommand_orderly (w : Word) (s : State) : Orderly s (IssueStops w s) (issueCommand w s) := by
  unfold issueCommand
  split
  next i hdecode =>
    refine (exec_orderly i s).mono fun ⟨⟨idx, hemit⟩, hrest⟩ => ⟨⟨idx, ?_⟩, hrest⟩
    rw [hdecode, hemit]
  next => exact orderly_raise .eCmdIllegal

theorem atMostOneEvent_whenWritable {written : State} (h : written.sticky = s.sticky) :
    AtMostOneEvent s (whenWritable s written) := by
  unfold whenWritable
  split
  · exact atMostOneEvent_of_eq h
  · exact atMostOneEvent_raise .eWrBusy s

theorem setReg_sticky (r : Reg) (v : Word) (s : State) : (setReg r v s).sticky = s.sticky := by rw [setReg_frame]

/-- CMD is the one write-only register. -/
theorem eq_cmd_of_regClass_wo {r : Reg} (h : regClass r = .wo) : r = .cmd := by
  cases r <;> simp [regClass] at h ⊢

theorem writeReg_orderly (r : Reg) (v : Word) (s : State) :
    Orderly s (r = .cmd ∧ IssueStops v s) (writeReg r v s) := by
  cases hclass : regClass r <;> simp only [writeReg, hclass]
  case ro => exact orderly_raise .eBus
  case rwAny => exact orderly_same (setReg_sticky r v s)
  case rwIdle => exact atMostOneEvent_whenWritable (setReg_sticky r v s)
  case wo => exact (issueCommand_orderly v s).mono fun hstop => ⟨eq_cmd_of_regClass_wo hclass, hstop⟩
  case w1c => exact atMostOneEvent_stickyCleared v s

/-- A register is selected only by a 32-bit access at its offset. -/
theorem eq_regAddr_of_accessTarget_reg {a : BitVec 20} {width : Nat} {r : Reg}
    (h : accessTarget s a width = .reg r) : a = regAddr r ∧ width = 4 := by
  unfold accessTarget targetOf at h
  split_ifs at h with hok hlow hxf hbuf
  split at h
  next r' hfind =>
    cases h
    have hoffset : regOffset r = a.toNat := by simpa using List.find?_some hfind
    have hform : width = 4 ∧ a.toNat % 4 = 0 := by simpa [accessOk] using hok
    exact ⟨eq_ofNat_of_toNat_eq hoffset.symm, hform.1⟩
  next => cases h

theorem hostWrite_orderly (a : BitVec 20) (width : Nat) (v : Word) (s : State) :
    Orderly s ((a = cmdAddr ∧ width = 4) ∧ IssueStops v s) (hostWrite a width v s) := by
  cases htarget : accessTarget s a width <;> simp only [hostWrite, htarget]
  case reg r =>
    refine (writeReg_orderly r v s).mono fun ⟨hcmd, hstop⟩ => ⟨?_, hstop⟩
    subst hcmd
    exact eq_regAddr_of_accessTarget_reg htarget
  case xf k w => exact atMostOneEvent_whenWritable rfl
  case outbuf i => exact orderly_raise .eBus
  case unmapped => exact orderly_raise .eBus

theorem atMostOneEvent_hostRead (a : BitVec 20) (width : Nat) (s : State) :
    AtMostOneEvent s (hostRead a width s) := by
  cases htarget : accessTarget s a width <;> simp only [hostRead, htarget]
  case unmapped => exact atMostOneEvent_of_eventBit .eBus rfl
  all_goals exact atMostOneEvent_of_eq rfl

theorem perform_orderly (act : HostAction) (s : State) :
    Orderly s (∃ w, act = .write cmdAddr 4 w ∧ IssueStops w s) (perform act s) := by
  cases act with
  | read a width => exact atMostOneEvent_hostRead a width s
  | write a width v =>
    refine (hostWrite_orderly a width v s).mono fun ⟨⟨ha, hwidth⟩, hstop⟩ => ⟨v, ?_, hstop⟩
    rw [ha, hwidth]
  | reset accepted answers => exact atMostOneEvent_of_imp fun i hi => by simp [State.reset] at hi
  | answer more => exact orderly_same rfl

/-! ### Steps -/

/-- Where a step stops: where the block's own step does, or where it issues an EMIT of which a write is
overreported. -/
def StepStops (s : State) : Prop := OwnStepStops s ∨ (IssuesEmit s ∧ FrameOverreported s)

/-- `OwnStepStops` reads nothing of the requests. -/
theorem ownStepStops_withRequests (pending : List Request) (s : State) :
    OwnStepStops { replenish s with pending := pending } ↔ OwnStepStops s := by
  simp [OwnStepStops, InHeaderWrite, InPayloadWrite, ledN]

/-- The first listed request, taken at once, is the EMIT that the step issues. -/
theorem issuesEmit_of_issueStops {r : Request} {rest : List Request} {w : Word}
    (hpending : (replenish s).pending = r :: rest) (hopen : requestOpen s r.act = true)
    (hact : r.act = .write cmdAddr 4 w) (hstop : IssueStops w { replenish s with pending := rest }) :
    IssuesEmit s ∧ FrameOverreported s := by
  obtain ⟨⟨idx, hdecode⟩, hidle, hcount, hover⟩ := hstop
  obtain ⟨n, act⟩ := r
  cases hact
  have hfree : s.cmdWait = none := (requestOpen_eq_true_iff.1 hopen).resolve_right nofun
  obtain ⟨hpos, hmax⟩ := ledCountValid_iff.1 hcount
  simp only [replenish_params, replenish_pos, ledN, replenish_cfg] at hidle hpos hmax
  exact ⟨⟨hfree, hidle, hpos, hmax, n, w, idx, rest, hpending, hdecode⟩,
    by simpa [FrameOverreported, ledN] using hover⟩

/-- An own step or an action of the outside world, from a state that differs in its requests alone. -/
theorem step_orderly (s : State) : Orderly s (StepStops s) (step s) := by
  have hown (pending : List Request) : Orderly s (StepStops s) (ownStep { replenish s with pending := pending }) :=
    ((ownStep_orderly { replenish s with pending := pending }).of_sticky (replenish_sticky s)).mono fun h =>
      .inl ((ownStepStops_withRequests pending s).1 h)
  obtain ⟨hstep, -⟩ | ⟨r, rest, hpending, hopen, ⟨-, -, hstep⟩ | ⟨-, hstep⟩⟩ := step_cases s <;> rw [hstep]
  · exact hown (replenish s).pending
  · exact hown _
  · have haction := perform_orderly r.act { replenish s with pending := rest }
    exact (haction.of_sticky (replenish_sticky s)).mono fun ⟨w, hact, hstop⟩ =>
      .inr (issuesEmit_of_issueStops hpending hopen hact hstop)

end Orderly

/-- Settles O58: a step that comes to a next state is orderly. -/
theorem atMostOneEventPerStep : Obligations.AtMostOneEventPerStep := by
  intro s t hstep
  have h := step_orderly s
  rw [hstep] at h
  exact h

/-- Settles O59: an orderly step that comes to no next state is refused where a write is overreported. -/
theorem onlyTransportOverreportStops : Obligations.OnlyTransportOverreportStops := by
  intro s
  have h := step_orderly s
  cases hstep : step s with
  | next t => exact .inl ⟨t, rfl⟩
  | fault f => cases f
  | refused r =>
    rw [hstep] at h
    obtain ⟨rfl, hstop⟩ := h
    refine .inr ⟨rfl, ?_⟩
    obtain (⟨⟨k, ws, hws, hk⟩, hin⟩ | ⟨⟨k, ws, hws, hk⟩, hin⟩ | ⟨⟨_, hws, k, ws, rfl, hk⟩, hin⟩) |
      ⟨hissue, ⟨k, ws, hws, hk⟩ | ⟨_, hws, k, ws, rfl, hk⟩⟩ := hstop
    · exact .inl ⟨k, ws, hws, hk, .inl hin⟩
    · exact .inr (.inl ⟨k, ws, hws, hk, hin⟩)
    · exact .inr (.inr ⟨k, ws, hws, hk, .inl hin⟩)
    · exact .inl ⟨k, ws, hws, hk, .inr hissue⟩
    · exact .inr (.inr ⟨k, ws, hws, hk, .inr hissue⟩)

end Sys2Proof.Machine
